-- ==== Sys2Proof/Word.lean ====
section
/-! DEFINITION. The word types of the machine (00_scope.md R6, R8): 32-bit words, bytes, register numbers and the
instruction's constant fields. Everything that could be shown wrong by a run stands in Decode.lean or under Machine/. -/

namespace Sys2Proof

/-- A 32-bit word: the width of a general register, of `pc` and of an instruction (10_state.md R20, R24; 30_encoding.md R80). -/
abbrev Word := BitVec 32

/-- A byte, the unit of memory addressing (20_memory.md R50). -/
abbrev Byte := BitVec 8

/-- A 64-bit value, the content of a pair of floating point registers (46_floating_point.md R236). -/
abbrev DWord := BitVec 64

/-- A register number: a 5-bit field, 0 to 31, unsigned (30_encoding.md R85). -/
abbrev RegNum := BitVec 5

/-- The 16-bit constant of an I-type instruction (30_encoding.md R82). -/
abbrev Imm16 := BitVec 16

/-- The 26-bit jump target of a J-type instruction (30_encoding.md R83). -/
abbrev Target26 := BitVec 26

end Sys2Proof
end

