-- ==== Sys2Proof/Machine/Flags.lean ====
section
/-! DEFINITION. The machine has no flags (10_state.md R33). What stands in their place: the overflow conditions, which only
raise an exception (40_arith_register.md R125), and the 0 or 1 a comparison writes into a register. -/

namespace Sys2Proof.Machine

/-- Outside the range of a 32-bit two's complement integer. -/
def outOfRange (z : Int) : Bool :=
  decide (z < -2147483648) || decide (2147483647 < z)

/-- The exact signed sum does not fit in 32 bits (40_arith_register.md R111, R125). -/
def addOverflows (a b : Word) : Bool :=
  outOfRange (a.toInt + b.toInt)

/-- The exact signed difference does not fit in 32 bits (40_arith_register.md R113, R125). -/
def subOverflows (a b : Word) : Bool :=
  outOfRange (a.toInt - b.toInt)

/-- The word a comparison writes: `0x00000001` or `0x00000000` (40_arith_register.md R119). -/
def truthWord (b : Bool) : Word :=
  if b then 1#32 else 0#32

/-- `signed(a) < signed(b)`. -/
def lessSigned (a b : Word) : Bool :=
  decide (a.toInt < b.toInt)

/-- `unsigned(a) < unsigned(b)`. -/
def lessUnsigned (a b : Word) : Bool :=
  decide (a.toNat < b.toNat)

end Sys2Proof.Machine
end

