-- ==== Sys2Proof/Syntax.lean ====
section
/-! DEFINITION. The syntax of the machine: one constructor per row of opcode_table.json, in the table's order.
Operands stand in the order of the assembly format (30_encoding.md R94): the destination first. -/

namespace Sys2Proof

/-- The 51 instructions of the handout (00_scope.md R3). -/
inductive Instr where
  -- register arithmetic and logic (40_arith_register.md)
  | add (rd rs rt : RegNum)
  | addu (rd rs rt : RegNum)
  | sub (rd rs rt : RegNum)
  | subu (rd rs rt : RegNum)
  | mult (rs rt : RegNum)
  | multu (rs rt : RegNum)
  | div (rs rt : RegNum)
  | divu (rs rt : RegNum)
  | slt (rd rs rt : RegNum)
  | sltu (rd rs rt : RegNum)
  | and (rd rs rt : RegNum)
  | or (rd rs rt : RegNum)
  | nor (rd rs rt : RegNum)
  | xor (rd rs rt : RegNum)
  -- immediate arithmetic and logic (41_arith_immediate.md)
  | addi (rt rs : RegNum) (imm : Imm16)
  | addiu (rt rs : RegNum) (imm : Imm16)
  | slti (rt rs : RegNum) (imm : Imm16)
  | sltiu (rt rs : RegNum) (imm : Imm16)
  | andi (rt rs : RegNum) (imm : Imm16)
  | ori (rt rs : RegNum) (imm : Imm16)
  | xori (rt rs : RegNum) (imm : Imm16)
  -- loads, stores and lui (42_load_store.md)
  | lw (rt : RegNum) (offset : Imm16) (rs : RegNum)
  | sw (rt : RegNum) (offset : Imm16) (rs : RegNum)
  | lbu (rt : RegNum) (offset : Imm16) (rs : RegNum)
  | lb (rt : RegNum) (offset : Imm16) (rs : RegNum)
  | sb (rt : RegNum) (offset : Imm16) (rs : RegNum)
  | lui (rt : RegNum) (imm : Imm16)
  -- branches and jumps (43_branch_jump.md)
  | beq (rs rt : RegNum) (offset : Imm16)
  | bne (rs rt : RegNum) (offset : Imm16)
  | blez (rs : RegNum) (offset : Imm16)
  | bgtz (rs : RegNum) (offset : Imm16)
  | bltz (rs : RegNum) (offset : Imm16)
  | j (target : Target26)
  | jal (target : Target26)
  | jr (rs : RegNum)
  | jalr (rd rs : RegNum)
  -- no-operation and the moves from Hi and Lo (44_nop_hilo.md)
  | nop
  | mfhi (rd : RegNum)
  | mflo (rd : RegNum)
  -- moves from the exception registers (45_exception_moves.md)
  | mfepc (rt : RegNum)
  | mfco (rt : RegNum)
  -- floating point (46_floating_point.md)
  | lwc1 (ft : RegNum) (offset : Imm16) (rs : RegNum)
  | swc1 (ft : RegNum) (offset : Imm16) (rs : RegNum)
  | addS (fd fs ft : RegNum)
  | addD (fd fs ft : RegNum)
  | subS (fd fs ft : RegNum)
  | subD (fd fs ft : RegNum)
  | mulS (fd fs ft : RegNum)
  | mulD (fd fs ft : RegNum)
  | divS (fd fs ft : RegNum)
  | divD (fd fs ft : RegNum)
  deriving DecidableEq, Repr

end Sys2Proof
end

