-- ==== Sys2Proof/Decode.lean ====
section
/-! DEFINITION. Decoding and encoding (30_encoding.md): the fields of a word, the opcode table, the decoder that
searches it (R91), the names under which a word that is no instruction is rejected (60_exceptions.md R252), and, after
it, the encoder written from the figures of the formats (R81 to R84), not from the table. -/

namespace Sys2Proof

/-! ### The fields of a word (30_encoding.md R81 to R85) -/

/-- Bits 31:26, the op-code. -/
def fieldOp (w : Word) : BitVec 6 := w.extractLsb' 26 6

/-- Bits 25:21, `rs`; the `fmt` of a co-processor word. -/
def fieldRs (w : Word) : RegNum := w.extractLsb' 21 5

/-- Bits 20:16, `rt`; `ft` of a floating point word. -/
def fieldRt (w : Word) : RegNum := w.extractLsb' 16 5

/-- Bits 15:11, `rd`; `fs` of a floating point word. -/
def fieldRd (w : Word) : RegNum := w.extractLsb' 11 5

/-- Bits 10:6, SA; `fd` of a floating point word. -/
def fieldSa (w : Word) : RegNum := w.extractLsb' 6 5

/-- Bits 5:0, the funct-code. -/
def fieldFunct (w : Word) : BitVec 6 := w.extractLsb' 0 6

/-- Bits 15:0, the immediate or offset. -/
def fieldImm (w : Word) : Imm16 := w.extractLsb' 0 16

/-- Bits 25:0, the jump target. -/
def fieldTarget (w : Word) : Target26 := w.extractLsb' 0 26

/-! ### The figures of the formats -/

/-- The R-type figure, fields from bit 31 to bit 0 (R81); with `fmt`, `ft`, `fs`, `fd` in the places of `rs`, `rt`, `rd`,
`sa` it is the floating point figure (R84). -/
def rFigure (op : BitVec 6) (rs rt rd sa : RegNum) (funct : BitVec 6) : Word :=
  op ++ rs ++ rt ++ rd ++ sa ++ funct

/-- The I-type figure (R82). -/
def iFigure (op : BitVec 6) (rs rt : RegNum) (imm : Imm16) : Word :=
  op ++ rs ++ rt ++ imm

/-- The J-type figure (R83). -/
def jFigure (op : BitVec 6) (target : Target26) : Word :=
  op ++ target

/-! ### Parameters of the encoding at the spec's default (00_scope.md R5; log 10) -/

/-- XOR_FUNCT (30_encoding.md R87): the handout's 40. -/
def xorFunct : BitVec 6 := 40#6

/-- FMT_S (30_encoding.md R90): the handout's 00000. -/
def fmtS : RegNum := 0#5

/-- FMT_D (30_encoding.md R90): 10001. -/
def fmtD : RegNum := 17#5

/-! ### The opcode table -/

/-- A row of opcode_table.json: its mnemonic, its `mask` and `match`, and the instruction read from the word's fields. -/
structure Row where
  mnemonic : String
  mask : Word
  pattern : Word
  build : Word → Instr

/-- `I AND mask = match` (30_encoding.md R91). -/
def Row.hits (r : Row) (w : Word) : Bool :=
  w &&& r.mask == r.pattern

/-- The rows of register arithmetic and logic (40_arith_register.md; 30_encoding.md R87). -/
def rowsRegister : List Row := [
  ⟨"add", 0xFC0007FF#32, 0x00000020#32, fun w => .add (fieldRd w) (fieldRs w) (fieldRt w)⟩,
  ⟨"addu", 0xFC0007FF#32, 0x00000021#32, fun w => .addu (fieldRd w) (fieldRs w) (fieldRt w)⟩,
  ⟨"sub", 0xFC0007FF#32, 0x00000022#32, fun w => .sub (fieldRd w) (fieldRs w) (fieldRt w)⟩,
  ⟨"subu", 0xFC0007FF#32, 0x00000023#32, fun w => .subu (fieldRd w) (fieldRs w) (fieldRt w)⟩,
  ⟨"mult", 0xFC00FFFF#32, 0x00000018#32, fun w => .mult (fieldRs w) (fieldRt w)⟩,
  ⟨"multu", 0xFC00FFFF#32, 0x00000019#32, fun w => .multu (fieldRs w) (fieldRt w)⟩,
  ⟨"div", 0xFC00FFFF#32, 0x0000001A#32, fun w => .div (fieldRs w) (fieldRt w)⟩,
  ⟨"divu", 0xFC00FFFF#32, 0x0000001B#32, fun w => .divu (fieldRs w) (fieldRt w)⟩,
  ⟨"slt", 0xFC0007FF#32, 0x0000002A#32, fun w => .slt (fieldRd w) (fieldRs w) (fieldRt w)⟩,
  ⟨"sltu", 0xFC0007FF#32, 0x0000002B#32, fun w => .sltu (fieldRd w) (fieldRs w) (fieldRt w)⟩,
  ⟨"and", 0xFC0007FF#32, 0x00000024#32, fun w => .and (fieldRd w) (fieldRs w) (fieldRt w)⟩,
  ⟨"or", 0xFC0007FF#32, 0x00000025#32, fun w => .or (fieldRd w) (fieldRs w) (fieldRt w)⟩,
  ⟨"nor", 0xFC0007FF#32, 0x00000027#32, fun w => .nor (fieldRd w) (fieldRs w) (fieldRt w)⟩,
  ⟨"xor", 0xFC0007FF#32, rFigure 0 0 0 0 0 xorFunct, fun w => .xor (fieldRd w) (fieldRs w) (fieldRt w)⟩]

/-- The rows of immediate arithmetic and logic (41_arith_immediate.md; 30_encoding.md R86). -/
def rowsImmediate : List Row := [
  ⟨"addi", 0xFC000000#32, 0x20000000#32, fun w => .addi (fieldRt w) (fieldRs w) (fieldImm w)⟩,
  ⟨"addiu", 0xFC000000#32, 0x24000000#32, fun w => .addiu (fieldRt w) (fieldRs w) (fieldImm w)⟩,
  ⟨"slti", 0xFC000000#32, 0x28000000#32, fun w => .slti (fieldRt w) (fieldRs w) (fieldImm w)⟩,
  ⟨"sltiu", 0xFC000000#32, 0x2C000000#32, fun w => .sltiu (fieldRt w) (fieldRs w) (fieldImm w)⟩,
  ⟨"andi", 0xFC000000#32, 0x30000000#32, fun w => .andi (fieldRt w) (fieldRs w) (fieldImm w)⟩,
  ⟨"ori", 0xFC000000#32, 0x34000000#32, fun w => .ori (fieldRt w) (fieldRs w) (fieldImm w)⟩,
  ⟨"xori", 0xFC000000#32, 0x38000000#32, fun w => .xori (fieldRt w) (fieldRs w) (fieldImm w)⟩]

/-- The rows of loads, stores and `lui` (42_load_store.md; 30_encoding.md R86). -/
def rowsMemory : List Row := [
  ⟨"lw", 0xFC000000#32, 0x8C000000#32, fun w => .lw (fieldRt w) (fieldImm w) (fieldRs w)⟩,
  ⟨"sw", 0xFC000000#32, 0xAC000000#32, fun w => .sw (fieldRt w) (fieldImm w) (fieldRs w)⟩,
  ⟨"lbu", 0xFC000000#32, 0x90000000#32, fun w => .lbu (fieldRt w) (fieldImm w) (fieldRs w)⟩,
  ⟨"lb", 0xFC000000#32, 0x80000000#32, fun w => .lb (fieldRt w) (fieldImm w) (fieldRs w)⟩,
  ⟨"sb", 0xFC000000#32, 0xA0000000#32, fun w => .sb (fieldRt w) (fieldImm w) (fieldRs w)⟩,
  ⟨"lui", 0xFFE00000#32, 0x3C000000#32, fun w => .lui (fieldRt w) (fieldImm w)⟩]

/-- The rows of branches and jumps (43_branch_jump.md; 30_encoding.md R86 to R88). -/
def rowsControl : List Row := [
  ⟨"beq", 0xFC000000#32, 0x10000000#32, fun w => .beq (fieldRs w) (fieldRt w) (fieldImm w)⟩,
  ⟨"bne", 0xFC000000#32, 0x14000000#32, fun w => .bne (fieldRs w) (fieldRt w) (fieldImm w)⟩,
  ⟨"blez", 0xFC1F0000#32, 0x18000000#32, fun w => .blez (fieldRs w) (fieldImm w)⟩,
  ⟨"bgtz", 0xFC1F0000#32, 0x1C000000#32, fun w => .bgtz (fieldRs w) (fieldImm w)⟩,
  ⟨"bltz", 0xFC1F0000#32, 0x04000000#32, fun w => .bltz (fieldRs w) (fieldImm w)⟩,
  ⟨"j", 0xFC000000#32, 0x08000000#32, fun w => .j (fieldTarget w)⟩,
  ⟨"jal", 0xFC000000#32, 0x0C000000#32, fun w => .jal (fieldTarget w)⟩,
  ⟨"jr", 0xFC1FFFFF#32, 0x00000008#32, fun w => .jr (fieldRs w)⟩,
  ⟨"jalr", 0xFC1F07FF#32, 0x00000009#32, fun w => .jalr (fieldRd w) (fieldRs w)⟩]

/-- The rows of `nop` and the moves from HI, LO, EPC and CAUSE (44_nop_hilo.md, 45_exception_moves.md; 30_encoding.md R87, R89). -/
def rowsMoves : List Row := [
  ⟨"nop", 0xFFFFFFFF#32, 0x00000000#32, fun _ => .nop⟩,
  ⟨"mfhi", 0xFFFF07FF#32, 0x00000010#32, fun w => .mfhi (fieldRd w)⟩,
  ⟨"mflo", 0xFFFF07FF#32, 0x00000012#32, fun w => .mflo (fieldRd w)⟩,
  ⟨"mfepc", 0xFFE0FFFF#32, 0x40007000#32, fun w => .mfepc (fieldRt w)⟩,
  ⟨"mfco", 0xFFE0FFFF#32, 0x40006800#32, fun w => .mfco (fieldRt w)⟩]

/-- The rows of floating point (46_floating_point.md; 30_encoding.md R84, R86, R90). -/
def rowsFloat : List Row := [
  ⟨"lwc1", 0xFC000000#32, 0xC4000000#32, fun w => .lwc1 (fieldRt w) (fieldImm w) (fieldRs w)⟩,
  ⟨"swc1", 0xFC000000#32, 0xE4000000#32, fun w => .swc1 (fieldRt w) (fieldImm w) (fieldRs w)⟩,
  ⟨"add.s", 0xFFE0003F#32, rFigure 17 fmtS 0 0 0 0, fun w => .addS (fieldSa w) (fieldRd w) (fieldRt w)⟩,
  ⟨"add.d", 0xFFE0003F#32, rFigure 17 fmtD 0 0 0 0, fun w => .addD (fieldSa w) (fieldRd w) (fieldRt w)⟩,
  ⟨"sub.s", 0xFFE0003F#32, rFigure 17 fmtS 0 0 0 1, fun w => .subS (fieldSa w) (fieldRd w) (fieldRt w)⟩,
  ⟨"sub.d", 0xFFE0003F#32, rFigure 17 fmtD 0 0 0 1, fun w => .subD (fieldSa w) (fieldRd w) (fieldRt w)⟩,
  ⟨"mul.s", 0xFFE0003F#32, rFigure 17 fmtS 0 0 0 2, fun w => .mulS (fieldSa w) (fieldRd w) (fieldRt w)⟩,
  ⟨"mul.d", 0xFFE0003F#32, rFigure 17 fmtD 0 0 0 2, fun w => .mulD (fieldSa w) (fieldRd w) (fieldRt w)⟩,
  ⟨"div.s", 0xFFE0003F#32, rFigure 17 fmtS 0 0 0 3, fun w => .divS (fieldSa w) (fieldRd w) (fieldRt w)⟩,
  ⟨"div.d", 0xFFE0003F#32, rFigure 17 fmtD 0 0 0 3, fun w => .divD (fieldSa w) (fieldRd w) (fieldRt w)⟩]

/-- opcode_table.json, all 51 rows in its order (30_encoding.md R91). -/
def opcodeTable : List Row :=
  rowsRegister ++ rowsImmediate ++ rowsMemory ++ rowsControl ++ rowsMoves ++ rowsFloat

/-! ### The decoder -/

/-- Why a word is no instruction, as 60_exceptions.md R252 lists the cases. Each raises IllegalOpcode. -/
inductive IllegalWord where
  /-- The op-code is not in the primary map (30_encoding.md R86). -/
  | opcodeNotInMap
  /-- Op-code 0 with a funct that is not in its map (30_encoding.md R87). -/
  | functNotInMap
  /-- `bltz`, `blez` or `bgtz` with `rt` not 00000 (30_encoding.md R88). -/
  | branchRtField
  /-- A co-processor 0 word other than `mfepc` and `mfco` (30_encoding.md R89, 45_exception_moves.md R212). -/
  | cop0Pattern
  /-- A co-processor 1 word with another `fmt` or `funct` (30_encoding.md R90). -/
  | cop1Pattern
  /-- A listed instruction with another value in a constant field (30_encoding.md R92). -/
  | constantField
  deriving DecidableEq, Repr

/-- The op-codes of the primary map (30_encoding.md R86). -/
def primaryMap : List (BitVec 6) :=
  [0, 1, 2, 3, 4, 5, 6, 7, 8, 9, 10, 11, 12, 13, 14, 15, 16, 17, 32, 35, 36, 40, 43, 49, 57]

/-- The functs of op-code 0 (30_encoding.md R87). -/
def specialMap : List (BitVec 6) :=
  [0, 8, 9, 16, 18, 24, 25, 26, 27, 32, 33, 34, 35, 36, 37, 39, xorFunct, 42, 43]

/-- The name under which a word that matches no row is rejected. -/
def whyIllegal (w : Word) : IllegalWord :=
  if !primaryMap.contains (fieldOp w) then .opcodeNotInMap
  else if fieldOp w == 0 && !specialMap.contains (fieldFunct w) then .functNotInMap
  else if [1, 6, 7].contains (fieldOp w) then .branchRtField
  else if fieldOp w == 16 then .cop0Pattern
  else if fieldOp w == 17 then .cop1Pattern
  else .constantField

/-- Decoding (30_encoding.md R91): the instruction of the row that the word matches, or the name of the rejection. -/
def decode (w : Word) : Except IllegalWord Instr :=
  match opcodeTable.find? (fun r => r.hits w) with
  | some r => .ok (r.build w)
  | none => .error (whyIllegal w)

/-- The decoder on a word numbered as opcode_table.json numbers it, every bit from `nbits` up being 0.
The hardware stores the word in its byte order and a fetch assembles it again (20_memory.md R52), so the decoder is given
the word itself; every instruction is one 32-bit word (30_encoding.md R80). -/
def decodeTableWord (nbits w : Nat) : Option Instr :=
  match decode (BitVec.ofNat 32 (w % 2 ^ nbits)) with
  | .ok i => some i
  | .error _ => none

/-! ### The encoder -/

/-- The word of an instruction, from the figures and the opcode maps (30_encoding.md R81 to R90). -/
def encode : Instr → Word
  | .add rd rs rt => rFigure 0 rs rt rd 0 32
  | .addu rd rs rt => rFigure 0 rs rt rd 0 33
  | .sub rd rs rt => rFigure 0 rs rt rd 0 34
  | .subu rd rs rt => rFigure 0 rs rt rd 0 35
  | .mult rs rt => rFigure 0 rs rt 0 0 24
  | .multu rs rt => rFigure 0 rs rt 0 0 25
  | .div rs rt => rFigure 0 rs rt 0 0 26
  | .divu rs rt => rFigure 0 rs rt 0 0 27
  | .slt rd rs rt => rFigure 0 rs rt rd 0 42
  | .sltu rd rs rt => rFigure 0 rs rt rd 0 43
  | .and rd rs rt => rFigure 0 rs rt rd 0 36
  | .or rd rs rt => rFigure 0 rs rt rd 0 37
  | .nor rd rs rt => rFigure 0 rs rt rd 0 39
  | .xor rd rs rt => rFigure 0 rs rt rd 0 xorFunct
  | .addi rt rs imm => iFigure 8 rs rt imm
  | .addiu rt rs imm => iFigure 9 rs rt imm
  | .slti rt rs imm => iFigure 10 rs rt imm
  | .sltiu rt rs imm => iFigure 11 rs rt imm
  | .andi rt rs imm => iFigure 12 rs rt imm
  | .ori rt rs imm => iFigure 13 rs rt imm
  | .xori rt rs imm => iFigure 14 rs rt imm
  | .lw rt imm rs => iFigure 35 rs rt imm
  | .sw rt imm rs => iFigure 43 rs rt imm
  | .lbu rt imm rs => iFigure 36 rs rt imm
  | .lb rt imm rs => iFigure 32 rs rt imm
  | .sb rt imm rs => iFigure 40 rs rt imm
  | .lui rt imm => iFigure 15 0 rt imm
  | .beq rs rt offset => iFigure 4 rs rt offset
  | .bne rs rt offset => iFigure 5 rs rt offset
  | .blez rs offset => iFigure 6 rs 0 offset
  | .bgtz rs offset => iFigure 7 rs 0 offset
  | .bltz rs offset => iFigure 1 rs 0 offset
  | .j target => jFigure 2 target
  | .jal target => jFigure 3 target
  | .jr rs => rFigure 0 rs 0 0 0 8
  | .jalr rd rs => rFigure 0 rs 0 rd 0 9
  | .nop => rFigure 0 0 0 0 0 0
  | .mfhi rd => rFigure 0 0 0 rd 0 16
  | .mflo rd => rFigure 0 0 0 rd 0 18
  | .mfepc rt => rFigure 16 0 rt 14 0 0
  | .mfco rt => rFigure 16 0 rt 13 0 0
  | .lwc1 ft imm rs => iFigure 49 rs ft imm
  | .swc1 ft imm rs => iFigure 57 rs ft imm
  | .addS fd fs ft => rFigure 17 fmtS ft fs fd 0
  | .addD fd fs ft => rFigure 17 fmtD ft fs fd 0
  | .subS fd fs ft => rFigure 17 fmtS ft fs fd 1
  | .subD fd fs ft => rFigure 17 fmtD ft fs fd 1
  | .mulS fd fs ft => rFigure 17 fmtS ft fs fd 2
  | .mulD fd fs ft => rFigure 17 fmtD ft fs fd 2
  | .divS fd fs ft => rFigure 17 fmtS ft fs fd 3
  | .divD fd fs ft => rFigure 17 fmtD ft fs fd 3

/-- The instruction's mnemonic in opcode_table.json. -/
def mnemonicOf : Instr → String
  | .add _ _ _ => "add"
  | .addu _ _ _ => "addu"
  | .sub _ _ _ => "sub"
  | .subu _ _ _ => "subu"
  | .mult _ _ => "mult"
  | .multu _ _ => "multu"
  | .div _ _ => "div"
  | .divu _ _ => "divu"
  | .slt _ _ _ => "slt"
  | .sltu _ _ _ => "sltu"
  | .and _ _ _ => "and"
  | .or _ _ _ => "or"
  | .nor _ _ _ => "nor"
  | .xor _ _ _ => "xor"
  | .addi _ _ _ => "addi"
  | .addiu _ _ _ => "addiu"
  | .slti _ _ _ => "slti"
  | .sltiu _ _ _ => "sltiu"
  | .andi _ _ _ => "andi"
  | .ori _ _ _ => "ori"
  | .xori _ _ _ => "xori"
  | .lw _ _ _ => "lw"
  | .sw _ _ _ => "sw"
  | .lbu _ _ _ => "lbu"
  | .lb _ _ _ => "lb"
  | .sb _ _ _ => "sb"
  | .lui _ _ => "lui"
  | .beq _ _ _ => "beq"
  | .bne _ _ _ => "bne"
  | .blez _ _ => "blez"
  | .bgtz _ _ => "bgtz"
  | .bltz _ _ => "bltz"
  | .j _ => "j"
  | .jal _ => "jal"
  | .jr _ => "jr"
  | .jalr _ _ => "jalr"
  | .nop => "nop"
  | .mfhi _ => "mfhi"
  | .mflo _ => "mflo"
  | .mfepc _ => "mfepc"
  | .mfco _ => "mfco"
  | .lwc1 _ _ _ => "lwc1"
  | .swc1 _ _ _ => "swc1"
  | .addS _ _ _ => "add.s"
  | .addD _ _ _ => "add.d"
  | .subS _ _ _ => "sub.s"
  | .subD _ _ _ => "sub.d"
  | .mulS _ _ _ => "mul.s"
  | .mulD _ _ _ => "mul.d"
  | .divS _ _ _ => "div.s"
  | .divD _ _ _ => "div.d"

end Sys2Proof
end

