-- ==== Sys2Proof/Config.lean ====
section
/-! DEFINITION. What a launch fixes and what the spec leaves free (00_scope.md R5; 92_eei_decisions.md preamble).
`Platform` is the record of the OPEN parameters an instruction can depend on: it is plain data, State carries it, no step
changes it, and a statement over all states is a statement over every value of it.
The opaque constants have no value that Lean could show: they are the spec's draws. -/

namespace Sys2Proof

/-- The two byte orders of the OPEN parameter ENDIAN (20_memory.md R53). -/
inductive Endian where
  | big
  | little
  deriving DecidableEq, Repr

/-- The `kind` of a memory access (20_memory.md R55). -/
inductive AccessKind where
  | fetch
  | load
  | store
  deriving DecidableEq, Repr

/-- The size `n` of a memory access: 1 or 4 bytes (20_memory.md R55, R56). -/
inductive AccessSize where
  | byte
  | word
  deriving DecidableEq, Repr

/-- Accesses of one size and kind at the addresses `first` to `last` are legal. -/
structure Window where
  first : Nat
  last : Nat
  size : AccessSize
  kind : AccessKind
  deriving DecidableEq, Repr

/-- The launch's parameters, constant over a run (10_state.md R34).
`legal` is LegalAddr(addr, n, kind) of 20_memory.md R55 written as data: an access is legal when some window holds it;
every predicate over the finitely many (addr, n, kind) is such a list. -/
structure Platform where
  endian : Endian
  legal : List Window
  causeDivZero : Word
  deriving DecidableEq, Repr

namespace Config

/-- CAUSE_DIVZERO at reset: the spec requires nothing of it (60_exceptions.md R255), so it has no value here (log 7). -/
opaque causeDivZero : Word

/-- The sign and the 22 payload bits of the `n`-th drawn single precision quiet NaN (46_floating_point.md R233; log 8). -/
opaque freeNaN32 : Nat → BitVec 23

/-- The sign and the 51 payload bits of the `n`-th drawn double precision quiet NaN (46_floating_point.md R233; log 8). -/
opaque freeNaN64 : Nat → BitVec 52

/-- RESET_PC at reset (70_reset_and_hazards.md R290). DESIGN CHOICE, log 2: the spec leaves it OPEN. -/
def resetPc : Word := 0#32

/-- All addresses, for accesses of one size and kind. -/
def everywhere (size : AccessSize) (kind : AccessKind) : Window :=
  { first := 0, last := 4294967295, size := size, kind := kind }

/-- The launch parameters that State.reset carries. DESIGN CHOICE, logs 5 and 6: big-endian, every access legal. -/
def launch : Platform where
  endian := .big
  legal := [everywhere .word .fetch, everywhere .word .load, everywhere .word .store,
    everywhere .byte .load, everywhere .byte .store]
  causeDivZero := causeDivZero

end Config

end Sys2Proof
end

