-- ==== Sys2Proof/Machine/State.lean ====
section
/-! DEFINITION. The machine's state, the four exceptions, the reasons a step can stop, and the state after reset.
State holds all of 10_state.md R38, and two fields of the model's own: the launch's parameters and the count of draws. -/

namespace Sys2Proof.Machine

/-- Memory (20_memory.md R50) as the cells that differ from what an unlisted address reads as, in one canonical form
(`Memory.wf` of Ops.lean). A cell's key is its byte address. -/
abbrev Memory := List Host.Cell

/-- The complete state of the machine (10_state.md R38; nothing else is state, R34). -/
structure State where
  /-- The general registers `x[0]` to `x[31]` (10_state.md R20). `x[0]` is hardwired (R21): read and write them by
  `State.gpr` and `State.setGpr` only. -/
  x : Vector Word 32
  /-- The address of the instruction in execution (10_state.md R24). -/
  pc : Word
  /-- `HI` (10_state.md R27). -/
  hi : Word
  /-- `LO` (10_state.md R27). -/
  lo : Word
  /-- `EPC`, co-processor 0 register 14 (10_state.md R29). -/
  epc : Word
  /-- `CAUSE`, co-processor 0 register 13 (10_state.md R30). -/
  cause : Word
  /-- The floating point registers `f[0]` to `f[31]` (10_state.md R32). -/
  f : Vector Word 32
  /-- The memory (20_memory.md R50). -/
  mem : Memory
  /-- The model's own: the launch's parameters, which no step changes (10_state.md R34). -/
  platform : Platform
  /-- The model's own: how many free values have been drawn (46_floating_point.md R233; log 8). -/
  draws : Nat
  deriving DecidableEq, Repr

/-- The four exceptions (60_exceptions.md R250). Each is taken: it gives a next state, never a stop. -/
inductive Exn where
  | illegalOpcode
  | overflow
  | illegalMemoryAddress
  | divisionByZero
  deriving DecidableEq, Repr

/-- Why the machine can stop with a fault: never. No instruction stops this machine (70_reset_and_hazards.md R296), every
word that is no instruction and every illegal address raises an exception (60_exceptions.md R252, R254), and an exception
that cannot be handled loops for ever (R261). The type is closed with no constructor (log 13). -/
inductive Fault where
  deriving DecidableEq, Repr

/-- Why a step has no meaning. -/
inductive Refusal where
  /-- An instruction with no meaning yet: raised by Dispatch.lean's refused arms only (there is none). Safe. -/
  | notModelled (mnemonic : String)
  /-- `add.d`, `sub.d`, `mul.d` or `div.d` with an odd register number: the spec refuses it
  (46_floating_point.md R236, 93_implementation_defined.md U21; log 9). Raised by those four meanings. Safe. -/
  | oddDoubleRegister
  deriving DecidableEq, Repr

/-- The machine right after reset (10_state.md R35, 70_reset_and_hazards.md R290): `x[0]` is 0, memory has nothing listed;
every value the spec leaves open is named in logs 1 to 8. -/
def State.reset : State where
  x := Vector.replicate 32 0#32
  pc := Config.resetPc
  hi := 0#32
  lo := 0#32
  epc := 0#32
  cause := 0#32
  f := Vector.replicate 32 0#32
  mem := []
  platform := Config.launch
  draws := 0

/-- What a step or an instruction's meaning answers. -/
abbrev Result := Host.Outcome State Fault Refusal

end Sys2Proof.Machine
end

