-- ==== Sys2Proof/Machine/Ops.lean ====
section
/-! DEFINITION. The named operations over registers, memory and the program counter, and exception entry: everything an
instruction's meaning is built from. -/

namespace Sys2Proof.Machine

/-! ### Registers -/

/-- `x[r]`: register 0 reads as zero (10_state.md R20, R21). -/
def State.gpr (s : State) (r : RegNum) : Word :=
  if r = 0#5 then 0#32 else s.x[r.toNat]'r.isLt

/-- `x[r] <- v`: a write to register 0 is discarded (10_state.md R21). -/
def State.setGpr (s : State) (r : RegNum) (v : Word) : State :=
  if r = 0#5 then s else { s with x := s.x.set r.toNat v r.isLt }

/-- `f[r]` (10_state.md R32). -/
def State.fpr (s : State) (r : RegNum) : Word :=
  s.f[r.toNat]'r.isLt

/-- `f[r] <- v` (10_state.md R32). -/
def State.setFpr (s : State) (r : RegNum) (v : Word) : State :=
  { s with f := s.f.set r.toNat v r.isLt }

/-- `HI <- h; LO <- l` (10_state.md R27). -/
def State.setHiLo (s : State) (h l : Word) : State :=
  { s with hi := h, lo := l }

/-- FP_PAIR_HIGH_FIRST: `f[n]` is the most significant word of a double (10_state.md R32; log 10). -/
def fpPairHighFirst : Bool := true

/-- `Pair(n)` (46_floating_point.md R236). -/
def State.pair (s : State) (n : RegNum) : DWord :=
  if fpPairHighFirst then s.fpr n ++ s.fpr (n + 1#5) else s.fpr (n + 1#5) ++ s.fpr n

/-- `SetPair(n, v)` (46_floating_point.md R236). -/
def State.setPair (s : State) (n : RegNum) (v : DWord) : State :=
  let high := v.extractLsb' 32 32
  let low := v.extractLsb' 0 32
  if fpPairHighFirst then (s.setFpr n high).setFpr (n + 1#5) low else (s.setFpr n low).setFpr (n + 1#5) high

/-- One more free value has been drawn (log 8). -/
def State.countDraw (s : State) : State :=
  { s with draws := s.draws + 1 }

/-! ### The program counter -/

/-- `pc <- pc + 4`, modulo 2^32 (10_state.md R25, R26). -/
def State.advance (s : State) : State :=
  { s with pc := s.pc + 4#32 }

/-- `pc <- target` (10_state.md R25). -/
def State.jumpTo (s : State) (target : Word) : State :=
  { s with pc := target }

/-! ### Taking an exception, and returning from one

There is no return instruction: a handler returns by `mfepc`, `addiu` and `jr` (60_exceptions.md R260), which are ordinary
instructions and restore nothing, because entry saves nothing but `EPC`. -/

/-- EXC_VECTOR (60_exceptions.md R251). -/
def excVector : Word := 0x80000180#32

/-- `code(E)`, zero-extended (60_exceptions.md R251 to R255; 10_state.md R30). -/
def causeCode (p : Platform) : Exn → Word
  | .illegalOpcode => 10#32
  | .overflow => 12#32
  | .illegalMemoryAddress => 4#32
  | .divisionByZero => p.causeDivZero

/-- Exception entry (60_exceptions.md R251): EPC <- pc, CAUSE <- code, pc <- 0x80000180, and nothing else. -/
def State.raise (s : State) (e : Exn) : State :=
  { s with epc := s.pc, cause := causeCode s.platform e, pc := excVector }

/-- The outcome of an instruction that may raise: the writes, or exception entry and nothing else (00_scope.md R10). -/
def complete (s : State) : Except Exn State → Result
  | .ok t => .next t
  | .error e => .next (s.raise e)

/-- `x[r] <- v; pc <- pc + 4`. -/
def writeGpr (r : RegNum) (v : Word) (s : State) : Result :=
  .next (s.setGpr r v).advance

/-! ### The memory as a list of cells -/

/-- What a byte of memory that nothing has written reads as. DESIGN CHOICE, log 3 (10_state.md R35 leaves it open). -/
def unlistedByte : Byte := 0#8

/-- The byte at an address. -/
def Memory.read : Memory → Nat → Byte
  | [], _ => unlistedByte
  | (k, v) :: rest, a => if k = a then v else Memory.read rest a

/-- A new cell at its place in the rising order of addresses. -/
def Memory.insertCell : Memory → Nat → Byte → Memory
  | [], a, b => [(a, b)]
  | (k, v) :: rest, a, b => if a < k then (a, b) :: (k, v) :: rest else (k, v) :: Memory.insertCell rest a b

/-- The memory without the cell of an address. -/
def Memory.clear (m : Memory) (a : Nat) : Memory :=
  m.filter fun c => c.1 != a

/-- The byte at an address set to `b`: the canonical form holds no cell that an unlisted address would read as. -/
def Memory.write (m : Memory) (a : Nat) (b : Byte) : Memory :=
  if b = unlistedByte then Memory.clear m a else Memory.insertCell (Memory.clear m a) a b

/-- The canonical form: addresses strictly rising and below 2^32, no cell with the byte an unlisted address reads as. -/
abbrev Memory.wf (m : Memory) : Prop :=
  m.Pairwise (fun c d => c.1 < d.1) ∧ ∀ c ∈ m, c.2 ≠ unlistedByte ∧ c.1 < 2 ^ 32

/-! ### Bytes and words of memory -/

/-- The byte of memory at `a` (20_memory.md R50, R51). -/
def State.byteAt (s : State) (a : Word) : Byte :=
  Memory.read s.mem a.toNat

/-- The byte at `a` set to `b` (20_memory.md R51). -/
def State.putByte (s : State) (a : Word) (b : Byte) : State :=
  { s with mem := Memory.write s.mem a.toNat b }

/-- The word of four bytes, the first at the lowest address (20_memory.md R52). -/
def wordOfBytes (e : Endian) (b0 b1 b2 b3 : Byte) : Word :=
  match e with
  | .big => b0 ++ b1 ++ b2 ++ b3
  | .little => b3 ++ b2 ++ b1 ++ b0

/-- Byte `k` (0 to 3) of a word, counted from the lowest address (20_memory.md R52). -/
def byteOfWord (e : Endian) (v : Word) (k : Nat) : Byte :=
  match e with
  | .big => v.extractLsb' (24 - 8 * k) 8
  | .little => v.extractLsb' (8 * k) 8

/-- The word beginning at `a`, addresses modulo 2^32 (20_memory.md R52). -/
def State.wordAt (s : State) (a : Word) : Word :=
  wordOfBytes s.platform.endian (s.byteAt a) (s.byteAt (a + 1#32)) (s.byteAt (a + 2#32)) (s.byteAt (a + 3#32))

/-- The four bytes beginning at `a` set to the word `v` (20_memory.md R52). -/
def State.putWord (s : State) (a v : Word) : State :=
  let e := s.platform.endian
  (((s.putByte a (byteOfWord e v 0)).putByte (a + 1#32) (byteOfWord e v 1)).putByte
    (a + 2#32) (byteOfWord e v 2)).putByte (a + 3#32) (byteOfWord e v 3)

/-! ### MemRead and MemWrite (20_memory.md R51 to R57) -/

/-- A 4-byte access needs `addr[1:0] = 00`; a 1-byte access has no requirement (20_memory.md R54). -/
def aligned (a : Word) : AccessSize → Bool
  | .byte => true
  | .word => a.extractLsb' 0 2 == 0#2

/-- LegalAddr(addr, n, kind) (20_memory.md R55). -/
def legalAddr (p : Platform) (a : Word) (n : AccessSize) (k : AccessKind) : Bool :=
  p.legal.any fun w => decide (w.size = n) && decide (w.kind = k) && decide (w.first ≤ a.toNat) && decide (a.toNat ≤ w.last)

/-- The checks of one access, alignment first (20_memory.md R54, R55, R66). -/
def State.accessible (s : State) (a : Word) (n : AccessSize) (k : AccessKind) : Bool :=
  aligned a n && legalAddr s.platform a n k

/-- `MemRead(a, 1)`. -/
def State.readByte (s : State) (k : AccessKind) (a : Word) : Except Exn Byte :=
  if s.accessible a .byte k then .ok (s.byteAt a) else .error .illegalMemoryAddress

/-- `MemRead(a, 4)`. -/
def State.readWord (s : State) (k : AccessKind) (a : Word) : Except Exn Word :=
  if s.accessible a .word k then .ok (s.wordAt a) else .error .illegalMemoryAddress

/-- `MemWrite(a, 1, b)`. -/
def State.writeByte (s : State) (a : Word) (b : Byte) : Except Exn State :=
  if s.accessible a .byte .store then .ok (s.putByte a b) else .error .illegalMemoryAddress

/-- `MemWrite(a, 4, v)`. -/
def State.writeWord (s : State) (a v : Word) : Except Exn State :=
  if s.accessible a .word .store then .ok (s.putWord a v) else .error .illegalMemoryAddress

/-! ### One instruction step's fetch and decode (00_scope.md R10) -/

/-- The instruction fetch: MemRead(pc, 4) with kind fetch (20_memory.md R56). -/
def State.fetch (s : State) : Except Exn Word :=
  s.readWord .fetch s.pc

/-- Stages 1 and 2 of a step, in their order of priority (60_exceptions.md R258): the instruction, or the exception. -/
def State.fetchDecode (s : State) : Except Exn Instr :=
  match s.fetch with
  | .error e => .error e
  | .ok w =>
    match decode w with
    | .ok i => .ok i
    | .error _ => .error .illegalOpcode

/-! ### A word placed where the next step fetches (the fixed name withFetchWord of Step.lean) -/

/-- The address of the word the program counter lies in. -/
def fetchAddress (pc : Word) : Word :=
  pc &&& 0xFFFFFFFC#32

/-- A fetch of the word at `a` made legal, if it is not. -/
def allowFetch (p : Platform) (a : Word) : Platform :=
  if legalAddr p a .word .fetch then p
  else { p with legal := { first := a.toNat, last := a.toNat, size := .word, kind := .fetch } :: p.legal }

/-- The word stored at the program counter, which is aligned and made fetchable where it is not (log 12). -/
def State.placeWord (s : State) (w : Word) : State :=
  let a := fetchAddress s.pc
  ({ s with pc := a, platform := allowFetch s.platform a }).putWord a w

end Sys2Proof.Machine
end

