-- ==== Sys2Proof/Machine/Operands.lean ====
section
/-! DEFINITION. How operands are assembled from instruction bits (30_encoding.md R85), the effective address
(20_memory.md R65) and the targets of branches and jumps (43_branch_jump.md R181, R182). -/

namespace Sys2Proof.Machine

/-- The sign-extended immediate or offset, `sext_32(I[15:0])`. -/
def sextImm (imm : Imm16) : Word :=
  imm.signExtend 32

/-- The zero-extended immediate, `zext_32(I[15:0])`. -/
def zextImm (imm : Imm16) : Word :=
  imm.zeroExtend 32

/-- The upper immediate, `I[15:0] || rep(0,16)`. -/
def upperImm (imm : Imm16) : Word :=
  imm ++ 0#16

/-- `EA = x[rs] + sext_32(offset)`, modulo 2^32 (20_memory.md R65). -/
def State.effectiveAddress (s : State) (rs : RegNum) (offset : Imm16) : Word :=
  s.gpr rs + sextImm offset

/-- The branch displacement `rep(I[15],14) || I[15:0] || 00` (30_encoding.md R85). -/
def branchDisplacement (offset : Imm16) : Word :=
  (offset ++ 0#2).signExtend 32

/-- `pc + 4 + disp`, `pc` being the branch's own address (43_branch_jump.md R181). -/
def branchTarget (pc : Word) (offset : Imm16) : Word :=
  pc + 4#32 + branchDisplacement offset

/-- `pc[31:28] || I[25:0] || 00`, `pc` being the jump's own address (43_branch_jump.md R182). -/
def jumpTarget (pc : Word) (target : Target26) : Word :=
  pc.extractLsb' 28 4 ++ target ++ 0#2

/-- The end of a conditional branch: the target if taken, else the next instruction (43_branch_jump.md R181). -/
def State.branchIf (s : State) (taken : Bool) (offset : Imm16) : State :=
  if taken then s.jumpTo (branchTarget s.pc offset) else s.advance

end Sys2Proof.Machine
end

