-- ==== Sys2Proof/Machine/ArithImmediate.lean ====
section
/-! DEFINITION. Immediate arithmetic, compare and logic (41_arith_immediate.md R140 to R148). -/

namespace Sys2Proof.Machine

/-- `addi` (R141): Overflow when the exact sum with the sign-extended immediate does not fit. -/
def execAddi (rt rs : RegNum) (imm : Imm16) (s : State) : Result :=
  if addOverflows (s.gpr rs) (sextImm imm) then .next (s.raise .overflow)
  else writeGpr rt (s.gpr rs + sextImm imm) s

/-- `addiu` (R142): the immediate is sign-extended, overflow is ignored. -/
def execAddiu (rt rs : RegNum) (imm : Imm16) (s : State) : Result :=
  writeGpr rt (s.gpr rs + sextImm imm) s

/-- `slti` (R143). -/
def execSlti (rt rs : RegNum) (imm : Imm16) (s : State) : Result :=
  writeGpr rt (truthWord (lessSigned (s.gpr rs) (sextImm imm))) s

/-- `sltiu` (R144): the immediate is sign-extended and then compared as unsigned (90_conflicts.md C8). -/
def execSltiu (rt rs : RegNum) (imm : Imm16) (s : State) : Result :=
  writeGpr rt (truthWord (lessUnsigned (s.gpr rs) (sextImm imm))) s

/-- `andi` (R145): the immediate is zero-extended (90_conflicts.md C7). -/
def execAndi (rt rs : RegNum) (imm : Imm16) (s : State) : Result :=
  writeGpr rt (s.gpr rs &&& zextImm imm) s

/-- `ori` (R146). -/
def execOri (rt rs : RegNum) (imm : Imm16) (s : State) : Result :=
  writeGpr rt (s.gpr rs ||| zextImm imm) s

/-- `xori` (R147). -/
def execXori (rt rs : RegNum) (imm : Imm16) (s : State) : Result :=
  writeGpr rt (s.gpr rs ^^^ zextImm imm) s

end Sys2Proof.Machine
end

