-- ==== Sys2Proof/Machine/ArithRegister.lean ====
section
/-! DEFINITION. Register arithmetic, multiply, divide, compare and logic (40_arith_register.md R110 to R128).
The operands are read from the state before any write (00_scope.md R10). -/

namespace Sys2Proof.Machine

/-- `add` (R111): Overflow when the exact sum does not fit, else the sum. -/
def execAdd (rd rs rt : RegNum) (s : State) : Result :=
  if addOverflows (s.gpr rs) (s.gpr rt) then .next (s.raise .overflow)
  else writeGpr rd (s.gpr rs + s.gpr rt) s

/-- `addu` (R112). -/
def execAddu (rd rs rt : RegNum) (s : State) : Result :=
  writeGpr rd (s.gpr rs + s.gpr rt) s

/-- `sub` (R113): Overflow when the exact difference does not fit, else the difference. -/
def execSub (rd rs rt : RegNum) (s : State) : Result :=
  if subOverflows (s.gpr rs) (s.gpr rt) then .next (s.raise .overflow)
  else writeGpr rd (s.gpr rs - s.gpr rt) s

/-- `subu` (R114). -/
def execSubu (rd rs rt : RegNum) (s : State) : Result :=
  writeGpr rd (s.gpr rs - s.gpr rt) s

/-- `HI || LO <- p; pc <- pc + 4` (R115, R116). -/
def writeProduct (p : DWord) (s : State) : Result :=
  .next (s.setHiLo (p.extractLsb' 32 32) (p.extractLsb' 0 32)).advance

/-- `mult` (R115): the exact signed product as a 64-bit two's complement value. -/
def execMult (rs rt : RegNum) (s : State) : Result :=
  writeProduct (BitVec.ofInt 64 ((s.gpr rs).toInt * (s.gpr rt).toInt)) s

/-- `multu` (R116): the exact unsigned product. -/
def execMultu (rs rt : RegNum) (s : State) : Result :=
  writeProduct (BitVec.ofNat 64 ((s.gpr rs).toNat * (s.gpr rt).toNat)) s

/-- DIV_OVERFLOW (R128; log 10): `LO` and `HI` after `-2^31 / -1`. -/
def divOverflow : Word × Word :=
  (0x80000000#32, 0#32)

/-- Quotient and remainder of `div` for a divisor that is not 0: rounded toward zero, the remainder with the dividend's sign
(R117, R127), and the case of R128. -/
def divideSigned (n d : Word) : Word × Word :=
  if n.toInt = -2147483648 ∧ d.toInt = -1 then divOverflow
  else (BitVec.ofInt 32 (n.toInt.tdiv d.toInt), BitVec.ofInt 32 (n.toInt.tmod d.toInt))

/-- Quotient and remainder of `divu` for a divisor that is not 0 (R118, R127). -/
def divideUnsigned (n d : Word) : Word × Word :=
  (BitVec.ofNat 32 (n.toNat / d.toNat), BitVec.ofNat 32 (n.toNat % d.toNat))

/-- `LO <- quotient; HI <- remainder; pc <- pc + 4` (R117, R118). -/
def writeQuotient (qr : Word × Word) (s : State) : Result :=
  .next (s.setHiLo qr.2 qr.1).advance

/-- `div` (R117): DivisionByZero when the divisor is 0 (60_exceptions.md R255). -/
def execDiv (rs rt : RegNum) (s : State) : Result :=
  if s.gpr rt = 0#32 then .next (s.raise .divisionByZero)
  else writeQuotient (divideSigned (s.gpr rs) (s.gpr rt)) s

/-- `divu` (R118): DivisionByZero when the divisor is 0 (60_exceptions.md R255). -/
def execDivu (rs rt : RegNum) (s : State) : Result :=
  if s.gpr rt = 0#32 then .next (s.raise .divisionByZero)
  else writeQuotient (divideUnsigned (s.gpr rs) (s.gpr rt)) s

/-- `slt` (R119). -/
def execSlt (rd rs rt : RegNum) (s : State) : Result :=
  writeGpr rd (truthWord (lessSigned (s.gpr rs) (s.gpr rt))) s

/-- `sltu` (R120). -/
def execSltu (rd rs rt : RegNum) (s : State) : Result :=
  writeGpr rd (truthWord (lessUnsigned (s.gpr rs) (s.gpr rt))) s

/-- `and` (R121). -/
def execAnd (rd rs rt : RegNum) (s : State) : Result :=
  writeGpr rd (s.gpr rs &&& s.gpr rt) s

/-- `or` (R122). -/
def execOr (rd rs rt : RegNum) (s : State) : Result :=
  writeGpr rd (s.gpr rs ||| s.gpr rt) s

/-- `nor` (R123). -/
def execNor (rd rs rt : RegNum) (s : State) : Result :=
  writeGpr rd (~~~(s.gpr rs ||| s.gpr rt)) s

/-- `xor` (R124). -/
def execXor (rd rs rt : RegNum) (s : State) : Result :=
  writeGpr rd (s.gpr rs ^^^ s.gpr rt) s

end Sys2Proof.Machine
end

