-- ==== Sys2Proof/Machine/BranchJump.lean ====
section
/-! DEFINITION. Branches and jumps (43_branch_jump.md R180 to R192). There is no delay slot (R180): the new pc is the
address of the very next instruction, and the link is the address of the instruction after the jump in memory. -/

namespace Sys2Proof.Machine

/-- `beq` (R183). -/
def execBeq (rs rt : RegNum) (offset : Imm16) (s : State) : Result :=
  .next (s.branchIf (s.gpr rs == s.gpr rt) offset)

/-- `bne` (R184). -/
def execBne (rs rt : RegNum) (offset : Imm16) (s : State) : Result :=
  .next (s.branchIf (s.gpr rs != s.gpr rt) offset)

/-- `blez` (R185): the condition is `<=` (90_conflicts.md C4). -/
def execBlez (rs : RegNum) (offset : Imm16) (s : State) : Result :=
  .next (s.branchIf (decide ((s.gpr rs).toInt ≤ 0)) offset)

/-- `bgtz` (R186). -/
def execBgtz (rs : RegNum) (offset : Imm16) (s : State) : Result :=
  .next (s.branchIf (decide (0 < (s.gpr rs).toInt)) offset)

/-- `bltz` (R187). -/
def execBltz (rs : RegNum) (offset : Imm16) (s : State) : Result :=
  .next (s.branchIf (decide ((s.gpr rs).toInt < 0)) offset)

/-- `j` (R188). -/
def execJ (target : Target26) (s : State) : Result :=
  .next (s.jumpTo (jumpTarget s.pc target))

/-- `jal` (R189): the link register is 31. -/
def execJal (target : Target26) (s : State) : Result :=
  .next ((s.setGpr 31#5 (s.pc + 4#32)).jumpTo (jumpTarget s.pc target))

/-- `jr` (R190): all 32 bits are copied, a misaligned target faults at its fetch. -/
def execJr (rs : RegNum) (s : State) : Result :=
  .next (s.jumpTo (s.gpr rs))

/-- `jalr` (R191): the target is read before the link is written, also when `rd = rs`. -/
def execJalr (rd rs : RegNum) (s : State) : Result :=
  .next ((s.setGpr rd (s.pc + 4#32)).jumpTo (s.gpr rs))

end Sys2Proof.Machine
end

