-- ==== Sys2Proof/Machine/ExceptionMoves.lean ====
section
/-! DEFINITION. The moves from the exception registers (45_exception_moves.md R210 to R212). There is no mode to check
(60_exceptions.md R263), and no instruction writes EPC or CAUSE from a general register (R212). -/

namespace Sys2Proof.Machine

/-- `mfepc` (R210): the destination is the `rt` field (90_conflicts.md C6). -/
def execMfepc (rt : RegNum) (s : State) : Result :=
  writeGpr rt s.epc s

/-- `mfco` (R211). -/
def execMfco (rt : RegNum) (s : State) : Result :=
  writeGpr rt s.cause s

end Sys2Proof.Machine
end

