-- ==== Sys2Proof/Machine/Fp.lean ====
section
/-! DEFINITION. The FP record (46_floating_point.md R231 to R237): IEEE 754 binary32 and binary64, round to nearest even,
with the spec's exceptions. One text serves both formats.

Every finite number of a format is a whole number of UNITS of 2^(1 - bias - p), the spacing of its subnormals (R231), so
a finite number is its sign and its magnitude in units, and the exact result of an operation is a fraction of units:
nothing is approximated before the one rounding. -/

namespace Sys2Proof.Machine

/-- A format by the width `w` of its exponent field and the width `p` of its fraction field (R231). -/
structure FpFormat where
  expBits : Nat
  fracBits : Nat
  deriving DecidableEq, Repr

/-- Single precision: `w, p = 8, 23` (R231). -/
def binary32 : FpFormat := { expBits := 8, fracBits := 23 }

/-- Double precision: `w, p = 11, 52` (R231). -/
def binary64 : FpFormat := { expBits := 11, fracBits := 52 }

/-- `2^w - 1`, the exponent of infinities and NaNs (R231). -/
def maxExponent (fmt : FpFormat) : Nat :=
  2 ^ fmt.expBits - 1

/-- How many units make 1: `2^(bias - 1 + p)` with `bias = 2^(w-1) - 1` (R231). -/
def unitsOfOne (fmt : FpFormat) : Nat :=
  2 ^ (2 ^ (fmt.expBits - 1) - 2 + fmt.fracBits)

/-- What a bit pattern stands for (R231). -/
inductive FpDatum where
  | nan
  | infinite (negative : Bool)
  | finite (negative : Bool) (units : Nat)
  deriving DecidableEq, Repr

/-- The reading of a bit pattern (R231): zero and subnormal numbers are `m` units, normal numbers `(2^p + m) * 2^(e-1)`. -/
def fpDatum (fmt : FpFormat) (bits : Nat) : FpDatum :=
  let negative := bits / 2 ^ (fmt.expBits + fmt.fracBits) % 2 == 1
  let e := bits / 2 ^ fmt.fracBits % 2 ^ fmt.expBits
  let m := bits % 2 ^ fmt.fracBits
  if e = maxExponent fmt then
    if m = 0 then .infinite negative else .nan
  else if e = 0 then .finite negative m
  else .finite negative ((2 ^ fmt.fracBits + m) * 2 ^ (e - 1))

/-- What an operation gives: `Value` of the sign and the other bits, `Value` of a quiet NaN, `Overflow` or `DivZero` (R232). -/
inductive FpResult where
  | value (negative : Bool) (magnitude : Nat)
  | nan
  | overflow
  | divZero
  deriving DecidableEq, Repr

/-- The four operations (R232). -/
inductive FpOperation where
  | add
  | sub
  | mul
  | div
  deriving DecidableEq, Repr

/-- `num / den` to the nearest whole number, a tie to the even one. -/
def roundHalfEven (num den : Nat) : Nat :=
  let q := num / den
  let r := num % den
  if 2 * r < den then q
  else if den < 2 * r then q + 1
  else if q % 2 = 0 then q else q + 1

/-- The magnitude `num / den` units rounded to the format (R232, R237): to the spacing of its binade, which is the subnormal
spacing of one unit below the smallest normal number. With `t` the exponent of the spacing and `n` the rounded number of
spacings, `t * 2^p + n` is the bit pattern of `n * 2^t` units: a carry of the fraction raises the exponent by itself.
A pattern that reaches the exponent of infinity lies above the largest finite value: `Overflow` (R234). -/
def fpRound (fmt : FpFormat) (negative : Bool) (num den : Nat) : FpResult :=
  let t := Nat.log2 (num / den) - fmt.fracBits
  let pattern := t * 2 ^ fmt.fracBits + roundHalfEven num (den * 2 ^ t)
  if maxExponent fmt * 2 ^ fmt.fracBits ≤ pattern then .overflow else .value negative pattern

/-- The infinity of a sign. -/
def fpInfinity (fmt : FpFormat) (negative : Bool) : FpResult :=
  .value negative (maxExponent fmt * 2 ^ fmt.fracBits)

/-- The zero of a sign. -/
def fpZero (negative : Bool) : FpResult :=
  .value negative 0

/-- A magnitude with its sign, as an exact integer of units. -/
def signedUnits (negative : Bool) (units : Nat) : Int :=
  if negative then -(units : Int) else (units : Int)

/-- The opposite sign: `a - b` is `a + (-b)` for every datum (log 11). -/
def fpNegate : FpDatum → FpDatum
  | .nan => .nan
  | .infinite n => .infinite (!n)
  | .finite n u => .finite (!n) u

/-- Addition (R232, R233): a zero sum is `+0`, except that of two negative zeros. -/
def fpAdd (fmt : FpFormat) : FpDatum → FpDatum → FpResult
  | .nan, _ => .nan
  | _, .nan => .nan
  | .infinite n, .infinite k => if n = k then fpInfinity fmt n else .nan
  | .infinite n, .finite _ _ => fpInfinity fmt n
  | .finite _ _, .infinite k => fpInfinity fmt k
  | .finite n u, .finite k v =>
    let z := signedUnits n u + signedUnits k v
    if z = 0 then fpZero (n && k) else fpRound fmt (decide (z < 0)) z.natAbs 1

/-- Multiplication (R232, R233): the sign is the exclusive-or of the signs. -/
def fpMul (fmt : FpFormat) : FpDatum → FpDatum → FpResult
  | .nan, _ => .nan
  | _, .nan => .nan
  | .infinite n, .infinite k => fpInfinity fmt (n != k)
  | .infinite n, .finite k v => if v = 0 then .nan else fpInfinity fmt (n != k)
  | .finite n u, .infinite k => if u = 0 then .nan else fpInfinity fmt (n != k)
  | .finite n u, .finite k v =>
    if u * v = 0 then fpZero (n != k) else fpRound fmt (n != k) (u * v) (unitsOfOne fmt)

/-- Division (R232, R233, R235): a finite non-zero number by zero is `DivZero`, `0 / 0` and `inf / inf` are invalid. -/
def fpDiv (fmt : FpFormat) : FpDatum → FpDatum → FpResult
  | .nan, _ => .nan
  | _, .nan => .nan
  | .infinite _, .infinite _ => .nan
  | .infinite n, .finite k _ => fpInfinity fmt (n != k)
  | .finite n _, .infinite k => fpZero (n != k)
  | .finite n u, .finite k v =>
    if v = 0 then
      if u = 0 then .nan else .divZero
    else if u = 0 then fpZero (n != k)
    else fpRound fmt (n != k) (u * unitsOfOne fmt) v

/-- The operation on two bit patterns (R232). -/
def fpOp (fmt : FpFormat) (op : FpOperation) (a b : Nat) : FpResult :=
  let x := fpDatum fmt a
  let y := fpDatum fmt b
  match op with
  | .add => fpAdd fmt x y
  | .sub => fpAdd fmt x (fpNegate y)
  | .mul => fpMul fmt x y
  | .div => fpDiv fmt x y

/-- A sign and the other bits of a single precision number as its 32 bits (R231). -/
def packSingle (negative : Bool) (magnitude : Nat) : Word :=
  BitVec.ofBool negative ++ BitVec.ofNat 31 magnitude

/-- A sign and the other bits of a double precision number as its 64 bits (R231). -/
def packDouble (negative : Bool) (magnitude : Nat) : DWord :=
  BitVec.ofBool negative ++ BitVec.ofNat 63 magnitude

/-- A single precision quiet NaN of the drawn sign and payload: exponent all ones, top fraction bit 1 (R233). -/
def quietNaN32 (draw : BitVec 23) : Word :=
  draw.extractLsb' 22 1 ++ 0x1FF#9 ++ draw.extractLsb' 0 22

/-- A double precision quiet NaN of the drawn sign and payload: exponent all ones, top fraction bit 1 (R233). -/
def quietNaN64 (draw : BitVec 52) : DWord :=
  draw.extractLsb' 51 1 ++ 0xFFF#12 ++ draw.extractLsb' 0 51

end Sys2Proof.Machine
end

