-- ==== Sys2Proof/WellFormed.lean ====
section
/-! DEFINITION. Which instructions are well formed. Every field has the width of its encoding, so the one check left is
the even register number of the double precision instructions (46_floating_point.md R236). -/

namespace Sys2Proof

/-- An even floating point register number: the first of a register pair (46_floating_point.md R236). -/
def evenReg (n : RegNum) : Bool :=
  !n.getLsbD 0

/-- The three register numbers of a double precision instruction are even (46_floating_point.md R224, R236). -/
def evenTriple (fd fs ft : RegNum) : Bool :=
  evenReg fd && evenReg fs && evenReg ft

/-- The check: double precision instructions name even registers; nothing else is restricted (10_state.md R22). -/
def Instr.wellFormed : Instr → Bool
  | .addD fd fs ft | .subD fd fs ft | .mulD fd fs ft | .divD fd fs ft => evenTriple fd fs ft
  | .add _ _ _ | .addu _ _ _ | .sub _ _ _ | .subu _ _ _ | .mult _ _ | .multu _ _ | .div _ _ | .divu _ _
  | .slt _ _ _ | .sltu _ _ _ | .and _ _ _ | .or _ _ _ | .nor _ _ _ | .xor _ _ _
  | .addi _ _ _ | .addiu _ _ _ | .slti _ _ _ | .sltiu _ _ _ | .andi _ _ _ | .ori _ _ _ | .xori _ _ _
  | .lw _ _ _ | .sw _ _ _ | .lbu _ _ _ | .lb _ _ _ | .sb _ _ _ | .lui _ _
  | .beq _ _ _ | .bne _ _ _ | .blez _ _ | .bgtz _ _ | .bltz _ _ | .j _ | .jal _ | .jr _ | .jalr _ _
  | .nop | .mfhi _ | .mflo _ | .mfepc _ | .mfco _ | .lwc1 _ _ _ | .swc1 _ _ _
  | .addS _ _ _ | .subS _ _ _ | .mulS _ _ _ | .divS _ _ _ => true

end Sys2Proof
end

