-- ==== Sys2Proof/Machine/FloatingPoint.lean ====
section
/-! DEFINITION. The floating point instructions (46_floating_point.md R220 to R238), over the numerics of Fp.lean. -/

namespace Sys2Proof.Machine

/-- `lwc1` (R221): the word is copied unchanged. -/
def execLwc1 (ft : RegNum) (offset : Imm16) (rs : RegNum) (s : State) : Result :=
  complete s ((s.readWord .load (s.effectiveAddress rs offset)).map fun v => (s.setFpr ft v).advance)

/-- `swc1` (R222): the word is stored unchanged. -/
def execSwc1 (ft : RegNum) (offset : Imm16) (rs : RegNum) (s : State) : Result :=
  complete s ((s.writeWord (s.effectiveAddress rs offset) (s.fpr ft)).map State.advance)

/-- The end of a single precision operation: its result in `f[fd]`, a drawn quiet NaN (R233), or its exception. -/
def deliverSingle (fd : RegNum) (s : State) : FpResult → Result
  | .value negative magnitude => .next (s.setFpr fd (packSingle negative magnitude)).advance
  | .nan => .next (s.setFpr fd (quietNaN32 (Config.freeNaN32 s.draws))).countDraw.advance
  | .overflow => .next (s.raise .overflow)
  | .divZero => .next (s.raise .divisionByZero)

/-- The end of a double precision operation: its result in the pair of `fd`, a drawn quiet NaN, or its exception. -/
def deliverDouble (fd : RegNum) (s : State) : FpResult → Result
  | .value negative magnitude => .next (s.setPair fd (packDouble negative magnitude)).advance
  | .nan => .next (s.setPair fd (quietNaN64 (Config.freeNaN64 s.draws))).countDraw.advance
  | .overflow => .next (s.raise .overflow)
  | .divZero => .next (s.raise .divisionByZero)

/-- `fd <- fs op ft` in single precision (R220, R223). -/
def arithSingle (op : FpOperation) (fd fs ft : RegNum) (s : State) : Result :=
  deliverSingle fd s (fpOp binary32 op (s.fpr fs).toNat (s.fpr ft).toNat)

/-- `fd <- fs op ft` in double precision; an odd register number is refused (R224, R236; log 9). -/
def arithDouble (op : FpOperation) (fd fs ft : RegNum) (s : State) : Result :=
  if evenTriple fd fs ft then deliverDouble fd s (fpOp binary64 op (s.pair fs).toNat (s.pair ft).toNat)
  else .refused .oddDoubleRegister

/-- `add.s` (R223). -/
def execAddS (fd fs ft : RegNum) (s : State) : Result :=
  arithSingle .add fd fs ft s

/-- `add.d` (R224). -/
def execAddD (fd fs ft : RegNum) (s : State) : Result :=
  arithDouble .add fd fs ft s

/-- `sub.s` (R225): `f[fs] - f[ft]`. -/
def execSubS (fd fs ft : RegNum) (s : State) : Result :=
  arithSingle .sub fd fs ft s

/-- `sub.d` (R226). -/
def execSubD (fd fs ft : RegNum) (s : State) : Result :=
  arithDouble .sub fd fs ft s

/-- `mul.s` (R227). -/
def execMulS (fd fs ft : RegNum) (s : State) : Result :=
  arithSingle .mul fd fs ft s

/-- `mul.d` (R228). -/
def execMulD (fd fs ft : RegNum) (s : State) : Result :=
  arithDouble .mul fd fs ft s

/-- `div.s` (R229): `f[fs] / f[ft]`; DivZero is decided before Overflow (60_exceptions.md R258). -/
def execDivS (fd fs ft : RegNum) (s : State) : Result :=
  arithSingle .div fd fs ft s

/-- `div.d` (R230). -/
def execDivD (fd fs ft : RegNum) (s : State) : Result :=
  arithDouble .div fd fs ft s

end Sys2Proof.Machine
end

