-- ==== Sys2Proof/Machine/LoadStore.lean ====
section
/-! DEFINITION. Loads, stores and `lui` (42_load_store.md R160 to R167). A load or store that raises changes nothing but
EPC, CAUSE and pc (20_memory.md R67). -/

namespace Sys2Proof.Machine

/-- `x[rt] <- v; pc <- pc + 4` for a loaded value, or the exception of the access (R160). -/
def loadGpr (rt : RegNum) (v : Except Exn Word) (s : State) : Result :=
  complete s (v.map fun w => (s.setGpr rt w).advance)

/-- `pc <- pc + 4` after a store, or the exception of the access (R160). -/
def finishStore (t : Except Exn State) (s : State) : Result :=
  complete s (t.map State.advance)

/-- `lw` (R161). -/
def execLw (rt : RegNum) (offset : Imm16) (rs : RegNum) (s : State) : Result :=
  loadGpr rt (s.readWord .load (s.effectiveAddress rs offset)) s

/-- `sw` (R162). -/
def execSw (rt : RegNum) (offset : Imm16) (rs : RegNum) (s : State) : Result :=
  finishStore (s.writeWord (s.effectiveAddress rs offset) (s.gpr rt)) s

/-- `lbu` (R163): the byte zero-extended. -/
def execLbu (rt : RegNum) (offset : Imm16) (rs : RegNum) (s : State) : Result :=
  loadGpr rt ((s.readByte .load (s.effectiveAddress rs offset)).map fun b => b.zeroExtend 32) s

/-- `lb` (R164): the byte sign-extended. -/
def execLb (rt : RegNum) (offset : Imm16) (rs : RegNum) (s : State) : Result :=
  loadGpr rt ((s.readByte .load (s.effectiveAddress rs offset)).map fun b => b.signExtend 32) s

/-- `sb` (R165): bits 7:0 of the register. -/
def execSb (rt : RegNum) (offset : Imm16) (rs : RegNum) (s : State) : Result :=
  finishStore (s.writeByte (s.effectiveAddress rs offset) ((s.gpr rt).extractLsb' 0 8)) s

/-- `lui` (R166): no memory access. -/
def execLui (rt : RegNum) (imm : Imm16) (s : State) : Result :=
  writeGpr rt (upperImm imm) s

end Sys2Proof.Machine
end

