-- ==== Sys2Proof/Machine/NopHiLo.lean ====
section
/-! DEFINITION. `nop` and the moves from HI and LO (44_nop_hilo.md R200 to R202). -/

namespace Sys2Proof.Machine

/-- `nop` (R200). -/
def execNop (s : State) : Result :=
  .next s.advance

/-- `mfhi` (R201). -/
def execMfhi (rd : RegNum) (s : State) : Result :=
  writeGpr rd s.hi s

/-- `mflo` (R202). -/
def execMflo (rd : RegNum) (s : State) : Result :=
  writeGpr rd s.lo s

end Sys2Proof.Machine
end

