-- ==== Sys2Proof/Machine/Step.lean ====
section
/-! DEFINITION. One instruction step (00_scope.md R10; 60_exceptions.md R258): fetch, decode, execute; the first stage that
raises takes its exception and ends the step. -/

namespace Sys2Proof.Machine

/-- One step of the machine. -/
def step (s : State) : Host.Outcome State Fault Refusal :=
  match s.fetchDecode with
  | .ok i => exec i s
  | .error e => .next (s.raise e)

/-- `s` with the instruction word `w`, numbered as opcode_table.json numbers it, where the next step fetches (log 12). -/
def State.withFetchWord (s : State) (nbits w : Nat) : State :=
  s.placeWord (BitVec.ofNat 32 (w % 2 ^ nbits))

end Sys2Proof.Machine
end

