-- ==== Sys2Proof/Safety.lean ====
section
/-! DEFINITION. The terms the statements use: the invariant of the machine, what two states agree on, what an instruction
wrote and what it left unchanged, the value of a floating point number as a rational, and a run that ends by the launch's
Halted predicate. Nothing here is used by the machine itself. -/

namespace Sys2Proof.Machine

/-! ### The invariant -/

/-- The hardwired register holds zero (10_state.md R21) and the memory is in its canonical form. -/
abbrev State.Inv (s : State) : Prop :=
  s.x[0] = 0#32 ∧ s.mem.wf

/-- The program counter is a multiple of 4 (10_state.md R26). -/
abbrev State.PcAligned (s : State) : Prop :=
  s.pc.toNat % 4 = 0

/-! ### What two states agree on -/

/-- Every general register reads the same. -/
def SameGprs (s t : State) : Prop :=
  ∀ r, t.gpr r = s.gpr r

/-- Every floating point register reads the same. -/
def SameFprs (s t : State) : Prop :=
  ∀ r, t.fpr r = s.fpr r

/-- Every byte of memory reads the same. -/
def SameMemory (s t : State) : Prop :=
  ∀ a, t.byteAt a = s.byteAt a

/-- `HI` and `LO` are the same. -/
abbrev SameHiLo (s t : State) : Prop :=
  t.hi = s.hi ∧ t.lo = s.lo

/-- `EPC` and `CAUSE` are the same. -/
abbrev SameExceptionRegs (s t : State) : Prop :=
  t.epc = s.epc ∧ t.cause = s.cause

/-- The launch's parameters are the same. -/
abbrev SamePlatform (s t : State) : Prop :=
  t.platform = s.platform

/-! ### What an instruction wrote, and its frame

Each says what became of every register, of `HI`, `LO`, `EPC`, `CAUSE`, of every byte of memory and of the launch's
parameters; the program counter is said apart. -/

/-- `v` was written to `x[rd]` (nothing, where `rd` is 0) and nothing else. -/
def GprWritten (s t : State) (rd : RegNum) (v : Word) : Prop :=
  (∀ r, t.gpr r = if r = rd ∧ r ≠ 0#5 then v else s.gpr r) ∧
    SameFprs s t ∧ SameMemory s t ∧ SameHiLo s t ∧ SameExceptionRegs s t ∧ SamePlatform s t ∧ t.draws = s.draws

/-- Nothing was written. -/
def NothingWritten (s t : State) : Prop :=
  SameGprs s t ∧ SameFprs s t ∧ SameMemory s t ∧ SameHiLo s t ∧ SameExceptionRegs s t ∧ SamePlatform s t ∧
    t.draws = s.draws

/-- `HI` and `LO` were written and nothing else. -/
def HiLoWritten (s t : State) (h l : Word) : Prop :=
  t.hi = h ∧ t.lo = l ∧
    SameGprs s t ∧ SameFprs s t ∧ SameMemory s t ∧ SameExceptionRegs s t ∧ SamePlatform s t ∧ t.draws = s.draws

/-- `v` was written to `f[fd]`, `n` free values were drawn, and nothing else. -/
def FprWritten (s t : State) (fd : RegNum) (v : Word) (n : Nat) : Prop :=
  (∀ r, t.fpr r = if r = fd then v else s.fpr r) ∧
    SameGprs s t ∧ SameMemory s t ∧ SameHiLo s t ∧ SameExceptionRegs s t ∧ SamePlatform s t ∧ t.draws = s.draws + n

/-- `v` was written to `f[fd] || f[fd+1]`, `n` free values were drawn, and nothing else (46_floating_point.md R236). -/
def FprPairWritten (s t : State) (fd : RegNum) (v : DWord) (n : Nat) : Prop :=
  (∀ r, t.fpr r = if r = fd then v.extractLsb' 32 32 else if r = fd + 1#5 then v.extractLsb' 0 32 else s.fpr r) ∧
    SameGprs s t ∧ SameMemory s t ∧ SameHiLo s t ∧ SameExceptionRegs s t ∧ SamePlatform s t ∧ t.draws = s.draws + n

/-- The bytes at the addresses where `new` gives one became it, and nothing else was written. -/
def MemoryWritten (s t : State) (new : Word → Option Byte) : Prop :=
  (∀ a, t.byteAt a = (new a).getD (s.byteAt a)) ∧
    SameGprs s t ∧ SameFprs s t ∧ SameHiLo s t ∧ SameExceptionRegs s t ∧ SamePlatform s t ∧ t.draws = s.draws

/-- The byte that the word `v` stored at `ea` leaves at the address `a`, if `a` is one of its four (20_memory.md R52): with
`big` the byte at the lowest address is bits 31:24, with `little` it is bits 7:0. -/
def storedWord (e : Endian) (ea v : Word) (a : Word) : Option Byte :=
  let top := v.extractLsb' 24 8
  let upper := v.extractLsb' 16 8
  let lower := v.extractLsb' 8 8
  let bottom := v.extractLsb' 0 8
  if a = ea then some (if e = .big then top else bottom)
  else if a = ea + 1#32 then some (if e = .big then upper else lower)
  else if a = ea + 2#32 then some (if e = .big then lower else upper)
  else if a = ea + 3#32 then some (if e = .big then bottom else top)
  else none

/-- The byte `b` stored at `ea` (20_memory.md R51). -/
def storedByte (ea : Word) (b : Byte) (a : Word) : Option Byte :=
  if a = ea then some b else none

/-- The word that a fetch or a word load at `a` assembles (20_memory.md R52). -/
def loadedWord (s : State) (a : Word) : Word :=
  if s.platform.endian = .big then s.byteAt a ++ s.byteAt (a + 1#32) ++ s.byteAt (a + 2#32) ++ s.byteAt (a + 3#32)
  else s.byteAt (a + 3#32) ++ s.byteAt (a + 2#32) ++ s.byteAt (a + 1#32) ++ s.byteAt a

/-- The word access at `a` passes both checks (20_memory.md R54, R55): `a` is a multiple of 4 and the launch allows it. -/
abbrev WordAccess (s : State) (k : AccessKind) (a : Word) : Prop :=
  a.toNat % 4 = 0 ∧ legalAddr s.platform a .word k = true

/-- The byte access at `a` passes its check (20_memory.md R54, R55). -/
abbrev ByteAccess (s : State) (k : AccessKind) (a : Word) : Prop :=
  legalAddr s.platform a .byte k = true

/-- `rep(I[15],14) || I[15:0] || 00` (43_branch_jump.md R181). -/
def displacement (offset : Imm16) : Word :=
  (if offset.getLsbD 15 then 0x3FFF#14 else 0x0000#14) ++ offset ++ 0b00#2

/-- An exception of this code was taken at `s`: EPC, CAUSE and pc as 60_exceptions.md R251 says, and nothing else. -/
def ExceptionTaken (s t : State) (code : Word) : Prop :=
  t.epc = s.pc ∧ t.cause = code ∧ t.pc = 0x80000180#32 ∧
    SameGprs s t ∧ SameFprs s t ∧ SameMemory s t ∧ SameHiLo s t ∧ SamePlatform s t ∧ t.draws = s.draws

/-! ### Words that are no instruction -/

/-- The cases of 60_exceptions.md R252, by the fields of the word: the op-code is not in the primary map (30_encoding.md
R86); op-code 0 with a funct not in its map or another value in a constant field (R87, R92); op-code 1, 6 or 7 with `rt`
not 00000 (R88); `lui` with `rs` not 00000 (R92); a co-processor 0 or 1 word outside the listed patterns (R89, R90). -/
abbrev NoInstruction (w : Word) : Prop :=
  let op := (fieldOp w).toNat
  let rs := (fieldRs w).toNat
  let rt := (fieldRt w).toNat
  let rd := (fieldRd w).toNat
  let sa := (fieldSa w).toNat
  let funct := (fieldFunct w).toNat
  op ∉ [0, 1, 2, 3, 4, 5, 6, 7, 8, 9, 10, 11, 12, 13, 14, 15, 16, 17, 32, 35, 36, 40, 43, 49, 57] ∨
    (op = 0 ∧
      (funct ∉ [0, 8, 9, 16, 18, 24, 25, 26, 27, 32, 33, 34, 35, 36, 37, 39, 40, 42, 43] ∨ sa ≠ 0 ∨
        (funct = 0 ∧ (rs ≠ 0 ∨ rt ≠ 0 ∨ rd ≠ 0)) ∨ (funct = 8 ∧ (rt ≠ 0 ∨ rd ≠ 0)) ∨ (funct = 9 ∧ rt ≠ 0) ∨
        (funct ∈ [16, 18] ∧ (rs ≠ 0 ∨ rt ≠ 0)) ∨ (funct ∈ [24, 25, 26, 27] ∧ rd ≠ 0))) ∨
    (op ∈ [1, 6, 7] ∧ rt ≠ 0) ∨
    (op = 15 ∧ rs ≠ 0) ∨
    (op = 16 ∧ (rs ≠ 0 ∨ rd ∉ [13, 14] ∨ sa ≠ 0 ∨ funct ≠ 0)) ∨
    (op = 17 ∧ (rs ∉ [0, 17] ∨ funct ∉ [0, 1, 2, 3]))

/-! ### The value of a floating point number (46_floating_point.md R231) -/

/-- Neither an infinity nor a NaN. -/
abbrev SingleFinite (b : Word) : Prop :=
  b.extractLsb' 23 8 ≠ 255#8

/-- A NaN: the exponent is all ones and the fraction is not zero. -/
abbrev SingleNaN (b : Word) : Prop :=
  b.extractLsb' 23 8 = 255#8 ∧ b.extractLsb' 0 23 ≠ 0#23

/-- A quiet NaN: the exponent is all ones and the top fraction bit is 1. -/
abbrev SingleQuietNaN (b : Word) : Prop :=
  b.extractLsb' 23 8 = 255#8 ∧ b.getLsbD 22 = true

/-- An infinity. -/
abbrev SingleInfinite (b : Word) : Prop :=
  b.extractLsb' 23 8 = 255#8 ∧ b.extractLsb' 0 23 = 0#23

/-- The value of a finite single precision number. -/
def singleValue (b : Word) : ℚ :=
  let e := (b.extractLsb' 23 8).toNat
  let m : ℚ := (b.extractLsb' 0 23).toNat
  let sign : ℚ := if b.getLsbD 31 then -1 else 1
  if e = 0 then sign * m * 2 ^ (-149 : ℤ) else sign * (1 + m / 2 ^ 23) * 2 ^ ((e : ℤ) - 127)

/-- Neither an infinity nor a NaN. -/
abbrev DoubleFinite (b : DWord) : Prop :=
  b.extractLsb' 52 11 ≠ 2047#11

/-- A NaN: the exponent is all ones and the fraction is not zero. -/
abbrev DoubleNaN (b : DWord) : Prop :=
  b.extractLsb' 52 11 = 2047#11 ∧ b.extractLsb' 0 52 ≠ 0#52

/-- A quiet NaN: the exponent is all ones and the top fraction bit is 1. -/
abbrev DoubleQuietNaN (b : DWord) : Prop :=
  b.extractLsb' 52 11 = 2047#11 ∧ b.getLsbD 51 = true

/-- An infinity. -/
abbrev DoubleInfinite (b : DWord) : Prop :=
  b.extractLsb' 52 11 = 2047#11 ∧ b.extractLsb' 0 52 = 0#52

/-- The value of a finite double precision number. -/
def doubleValue (b : DWord) : ℚ :=
  let e := (b.extractLsb' 52 11).toNat
  let m : ℚ := (b.extractLsb' 0 52).toNat
  let sign : ℚ := if b.getLsbD 63 then -1 else 1
  if e = 0 then sign * m * 2 ^ (-1074 : ℤ) else sign * (1 + m / 2 ^ 52) * 2 ^ ((e : ℤ) - 1023)

/-- `v` is the single precision number nearest to `z`: no finite number is nearer, of two equally near ones it is the one
whose last fraction bit is 0, and it has the sign of `z` (46_floating_point.md R232). -/
def SingleNearest (v : Word) (z : ℚ) : Prop :=
  SingleFinite v ∧
    (∀ c, SingleFinite c → |singleValue v - z| ≤ |singleValue c - z|) ∧
    (∀ c, SingleFinite c → singleValue c ≠ singleValue v → |singleValue c - z| = |singleValue v - z| →
      v.getLsbD 0 = false) ∧
    (z < 0 → v.getLsbD 31 = true) ∧ (0 < z → v.getLsbD 31 = false)

/-- `v` is the double precision number nearest to `z` (46_floating_point.md R232). -/
def DoubleNearest (v : DWord) (z : ℚ) : Prop :=
  DoubleFinite v ∧
    (∀ c, DoubleFinite c → |doubleValue v - z| ≤ |doubleValue c - z|) ∧
    (∀ c, DoubleFinite c → doubleValue c ≠ doubleValue v → |doubleValue c - z| = |doubleValue v - z| →
      v.getLsbD 0 = false) ∧
    (z < 0 → v.getLsbD 63 = true) ∧ (0 < z → v.getLsbD 63 = false)

/-- Half a unit in the last place above the largest finite single precision number `(2 - 2^-23) * 2^127`: from here on an
exact result overflows (46_floating_point.md R234). -/
def singleLimit : ℚ :=
  (2 - 2 ^ (-24 : ℤ)) * 2 ^ 127

/-- Half a unit in the last place above the largest finite double precision number `(2 - 2^-52) * 2^1023`. -/
def doubleLimit : ℚ :=
  (2 - 2 ^ (-53 : ℤ)) * 2 ^ 1023

/-! ### The floating point operations (46_floating_point.md R232 to R235) -/

/-- `add.s`, `sub.s`, `mul.s` or `div.s`. -/
def singleInstr (op : FpOperation) (fd fs ft : RegNum) : Instr :=
  match op with
  | .add => .addS fd fs ft
  | .sub => .subS fd fs ft
  | .mul => .mulS fd fs ft
  | .div => .divS fd fs ft

/-- `add.d`, `sub.d`, `mul.d` or `div.d`. -/
def doubleInstr (op : FpOperation) (fd fs ft : RegNum) : Instr :=
  match op with
  | .add => .addD fd fs ft
  | .sub => .subD fd fs ft
  | .mul => .mulD fd fs ft
  | .div => .divD fd fs ft

/-- The register number is that of the first register of a pair. -/
abbrev EvenPair (r : RegNum) : Prop :=
  r.toNat % 2 = 0

/-- The 64-bit value of `f[n] || f[n+1]` (46_floating_point.md R236). -/
def doubleAt (s : State) (n : RegNum) : DWord :=
  s.fpr n ++ s.fpr (n + 1#5)

/-- The exact result of an operation on two finite numbers. -/
def exactResult (op : FpOperation) (a b : ℚ) : ℚ :=
  match op with
  | .add => a + b
  | .sub => a - b
  | .mul => a * b
  | .div => a / b

/-- `+0` or `-0`. -/
abbrev SingleZero (b : Word) : Prop :=
  b = 0#32 ∨ b = 0x80000000#32

/-- `+0` or `-0`. -/
abbrev DoubleZero (b : DWord) : Prop :=
  b = 0#64 ∨ b = 0x8000000000000000#64

/-- An operand is a NaN or the operation is one of the invalid ones (46_floating_point.md R233). -/
def SingleInvalid (op : FpOperation) (a b : Word) : Prop :=
  SingleNaN a ∨ SingleNaN b ∨
    match op with
    | .add => SingleInfinite a ∧ SingleInfinite b ∧ a ≠ b
    | .sub => SingleInfinite a ∧ SingleInfinite b ∧ a = b
    | .mul => (SingleZero a ∧ SingleInfinite b) ∨ (SingleInfinite a ∧ SingleZero b)
    | .div => (SingleZero a ∧ SingleZero b) ∨ (SingleInfinite a ∧ SingleInfinite b)

/-- An operand is a NaN or the operation is one of the invalid ones (46_floating_point.md R233). -/
def DoubleInvalid (op : FpOperation) (a b : DWord) : Prop :=
  DoubleNaN a ∨ DoubleNaN b ∨
    match op with
    | .add => DoubleInfinite a ∧ DoubleInfinite b ∧ a ≠ b
    | .sub => DoubleInfinite a ∧ DoubleInfinite b ∧ a = b
    | .mul => (DoubleZero a ∧ DoubleInfinite b) ∨ (DoubleInfinite a ∧ DoubleZero b)
    | .div => (DoubleZero a ∧ DoubleZero b) ∨ (DoubleInfinite a ∧ DoubleInfinite b)

/-- The sign that multiplication and division give: the exclusive-or of the operands' signs. -/
def singleSign (a b : Word) : Word :=
  (a ^^^ b) &&& 0x80000000#32

/-- The sign that multiplication and division give: the exclusive-or of the operands' signs. -/
def doubleSign (a b : DWord) : DWord :=
  (a ^^^ b) &&& 0x8000000000000000#64

/-- The result of a valid operation with an infinite operand (46_floating_point.md R232, case 3). -/
def singleInfiniteResult (op : FpOperation) (a b : Word) : Word :=
  match op with
  | .add => if a.extractLsb' 23 8 = 255#8 then a else b
  | .sub => if a.extractLsb' 23 8 = 255#8 then a else b ^^^ 0x80000000#32
  | .mul => singleSign a b ||| 0x7F800000#32
  | .div => if a.extractLsb' 23 8 = 255#8 then singleSign a b ||| 0x7F800000#32 else singleSign a b

/-- The result of a valid operation with an infinite operand (46_floating_point.md R232, case 3). -/
def doubleInfiniteResult (op : FpOperation) (a b : DWord) : DWord :=
  match op with
  | .add => if a.extractLsb' 52 11 = 2047#11 then a else b
  | .sub => if a.extractLsb' 52 11 = 2047#11 then a else b ^^^ 0x8000000000000000#64
  | .mul => doubleSign a b ||| 0x7FF0000000000000#64
  | .div => if a.extractLsb' 52 11 = 2047#11 then doubleSign a b ||| 0x7FF0000000000000#64 else doubleSign a b

/-- The zero delivered where the exact result is 0 (46_floating_point.md R232, case 4). -/
def singleZeroResult (op : FpOperation) (a b : Word) : Word :=
  match op with
  | .add => if a = 0x80000000#32 ∧ b = 0x80000000#32 then 0x80000000#32 else 0#32
  | .sub => if a = 0x80000000#32 ∧ b = 0#32 then 0x80000000#32 else 0#32
  | .mul => singleSign a b
  | .div => singleSign a b

/-- The zero delivered where the exact result is 0 (46_floating_point.md R232, case 4). -/
def doubleZeroResult (op : FpOperation) (a b : DWord) : DWord :=
  match op with
  | .add => if a = 0x8000000000000000#64 ∧ b = 0x8000000000000000#64 then 0x8000000000000000#64 else 0#64
  | .sub => if a = 0x8000000000000000#64 ∧ b = 0#64 then 0x8000000000000000#64 else 0#64
  | .mul => doubleSign a b
  | .div => doubleSign a b

/-! ### A run -/

/-- At most `fuel` steps, stopping before a step at which the launch's `halted` holds (70_reset_and_hazards.md R296). -/
def runUntil (halted : State → Bool) : Nat → State → Result
  | 0, s => .next s
  | fuel + 1, s =>
    if halted s then .next s
    else
      match step s with
      | .next t => runUntil halted fuel t
      | .fault r => .fault r
      | .refused r => .refused r

end Sys2Proof.Machine
end

