-- ==== Sys2Proof/Certificates/Slice0/Obligations.lean ====
section
/-! DEFINITION. The statements for the provers. Each docstring names the rule of spec/ it comes from; where a statement rests
on a choice (of the spec, marked [decision] or [from general knowledge] there, or of the model) it says which. -/

open Sys2Proof Sys2Proof.Machine

/-! ### Encoding and decoding -/

/-- Decoding the word the encoder writes gives the instruction back, every operand at every value
(30_encoding.md sections 1 to 4). -/
def Obligations.DecodeOfEncode : Prop :=
  ∀ i : Instr, decode (encode i) = .ok i

/-- A word that decodes is the word the encoder writes for its instruction: no two words mean one instruction, and no bit
of a legal word is ignored (30_encoding.md sections 1 to 4). That a constant field is part of the match is STRICT_FIELDS, the
spec's decision D11 and log 10 (DESIGN CHOICE): with a lenient decoder the statement would be false. -/
def Obligations.EncodeOfDecode : Prop :=
  ∀ (w : Word) (i : Instr), decode w = .ok i → encode i = w

/-- The 51 rows of the table are pairwise disjoint, the row that a word matches decides it whatever the order of the
search, and a word that matches none is rejected (30_encoding.md section 4; the spec's decision D11, log 10). -/
def Obligations.OneRowDecidesEachWord : Prop :=
  opcodeTable.length = 51 ∧
    opcodeTable.Pairwise (fun r q => ∀ w : Word, ¬(r.hits w = true ∧ q.hits w = true)) ∧
    (∀ (w : Word) (r : Row), r ∈ opcodeTable → r.hits w = true → decode w = .ok (r.build w)) ∧
    (∀ w : Word, (∀ r ∈ opcodeTable, r.hits w = false) → ∃ e, decode w = .error e)

/-- Exactly the words listed case by case in 60_exceptions.md section 1 (IllegalOpcode) are no instruction
(30_encoding.md sections 3 and 4; the spec's decisions D11 and D28 to D31, log 10). -/
def Obligations.RejectedWordsByTheirFields : Prop :=
  ∀ w : Word, (∃ e, decode w = .error e) ↔ NoInstruction w

/-- Ten words written out field by field decode to the instructions they stand for (95_test_vectors.md section 2.1). The
figures of `add`, `lw`, `beq` and `jalr` survive; those of `mult`, `addi`, `jal`, `nop`, `mfepc` and `sub.d` are lost in
whole or in part, and their bits are the spec's general knowledge (30_encoding.md R97; the spec's decision D28; `FMT_D` of
`sub.d` is log 10, DESIGN CHOICE). -/
def Obligations.HandEncodedWordsDecode : Prop :=
  decode 0b000000_00001_00010_00011_00000_100000#32 = .ok (.add 3 1 2) ∧
    decode 0b000000_00100_00101_00000_00000_011000#32 = .ok (.mult 4 5) ∧
    decode 0b001000_00001_00010_1111111111111111#32 = .ok (.addi 2 1 0xFFFF) ∧
    decode 0b100011_01001_01000_0000000000000100#32 = .ok (.lw 8 4 9) ∧
    decode 0b000100_00001_00010_0000000000000011#32 = .ok (.beq 1 2 3) ∧
    decode 0b000011_00000100000000000000000000#32 = .ok (.jal 0x0100000) ∧
    decode 0b000000_01000_00000_11111_00000_001001#32 = .ok (.jalr 31 8) ∧
    decode 0#32 = .ok .nop ∧
    decode 0b010000_00000_11010_01110_00000_000000#32 = .ok (.mfepc 26) ∧
    decode 0b010001_10001_00110_00100_00010_000001#32 = .ok (.subD 2 4 6)

/-- The words of the instructions whose figure survives and that no other statement fixes (`lb` is the figure of `lbu` with
its own op-code), with every register and immediate (30_encoding.md R81 to R83, R86, R87, R97: that the three register
fields are rs, rt, rd in this order is recovered there). -/
def Obligations.WordsWithSurvivingFigureDecode : Prop :=
  ∀ (rs rt rd : RegNum) (imm : Imm16),
    decode (0b000000#6 ++ rs ++ rt ++ rd ++ 0b00000#5 ++ 0b100000#6) = .ok (.add rd rs rt) ∧
    decode (0b000000#6 ++ rs ++ rt ++ rd ++ 0b00000#5 ++ 0b100010#6) = .ok (.sub rd rs rt) ∧
    decode (0b100011#6 ++ rs ++ rt ++ imm) = .ok (.lw rt imm rs) ∧
    decode (0b101011#6 ++ rs ++ rt ++ imm) = .ok (.sw rt imm rs) ∧
    decode (0b100100#6 ++ rs ++ rt ++ imm) = .ok (.lbu rt imm rs) ∧
    decode (0b100000#6 ++ rs ++ rt ++ imm) = .ok (.lb rt imm rs) ∧
    decode (0b101000#6 ++ rs ++ rt ++ imm) = .ok (.sb rt imm rs) ∧
    decode (0b000000#6 ++ rs ++ 0b00000#5 ++ 0b00000#5 ++ 0b00000#5 ++ 0b001000#6) = .ok (.jr rs) ∧
    decode (0b000000#6 ++ rs ++ 0b00000#5 ++ rd ++ 0b00000#5 ++ 0b001001#6) = .ok (.jalr rd rs) ∧
    decode (0b110001#6 ++ rs ++ rt ++ imm) = .ok (.lwc1 rt imm rs) ∧
    decode (0b111001#6 ++ rs ++ rt ++ imm) = .ok (.swc1 rt imm rs)

/-- The words of the instructions whose figure is lost in whole or in part and that no other statement fixes, with every
register and immediate. The bits are the spec's general knowledge (30_encoding.md R97; the spec's decision D28), but for the
functs of `multu` and `divu`, the funct 40 of `xor` (D29) and the functs and the `fmt` 00000 of single precision (D30), which
the handout gives; XOR_FUNCT, FMT_S and FMT_D are log 10 (DESIGN CHOICE). -/
def Obligations.WordsWithLostFigureDecode : Prop :=
  ∀ (rs rt rd fd fs ft : RegNum) (imm : Imm16) (target : Target26),
    decode (0b000000#6 ++ rs ++ rt ++ 0b00000#5 ++ 0b00000#5 ++ 0b011000#6) = .ok (.mult rs rt) ∧
    decode (0b000000#6 ++ rs ++ rt ++ 0b00000#5 ++ 0b00000#5 ++ 0b011001#6) = .ok (.multu rs rt) ∧
    decode (0b000000#6 ++ rs ++ rt ++ 0b00000#5 ++ 0b00000#5 ++ 0b011010#6) = .ok (.div rs rt) ∧
    decode (0b000000#6 ++ rs ++ rt ++ 0b00000#5 ++ 0b00000#5 ++ 0b011011#6) = .ok (.divu rs rt) ∧
    decode (0b000000#6 ++ rs ++ rt ++ rd ++ 0b00000#5 ++ 0b101010#6) = .ok (.slt rd rs rt) ∧
    decode (0b000000#6 ++ rs ++ rt ++ rd ++ 0b00000#5 ++ 0b100100#6) = .ok (.and rd rs rt) ∧
    decode (0b000000#6 ++ rs ++ rt ++ rd ++ 0b00000#5 ++ 0b101000#6) = .ok (.xor rd rs rt) ∧
    decode (0b001000#6 ++ rs ++ rt ++ imm) = .ok (.addi rt rs imm) ∧
    decode (0b000011#6 ++ target) = .ok (.jal target) ∧
    decode (0b000000#6 ++ 0b00000#5 ++ 0b00000#5 ++ 0b00000#5 ++ 0b00000#5 ++ 0b000000#6) = .ok .nop ∧
    decode (0b000000#6 ++ 0b00000#5 ++ 0b00000#5 ++ rd ++ 0b00000#5 ++ 0b010000#6) = .ok (.mfhi rd) ∧
    decode (0b000000#6 ++ 0b00000#5 ++ 0b00000#5 ++ rd ++ 0b00000#5 ++ 0b010010#6) = .ok (.mflo rd) ∧
    decode (0b010000#6 ++ 0b00000#5 ++ rt ++ 0b01110#5 ++ 0b00000#5 ++ 0b000000#6) = .ok (.mfepc rt) ∧
    decode (0b010000#6 ++ 0b00000#5 ++ rt ++ 0b01101#5 ++ 0b00000#5 ++ 0b000000#6) = .ok (.mfco rt) ∧
    decode (0b010001#6 ++ 0b00000#5 ++ ft ++ fs ++ fd ++ 0b000000#6) = .ok (.addS fd fs ft) ∧
    decode (0b010001#6 ++ 0b10001#5 ++ ft ++ fs ++ fd ++ 0b000000#6) = .ok (.addD fd fs ft) ∧
    decode (0b010001#6 ++ 0b00000#5 ++ ft ++ fs ++ fd ++ 0b000001#6) = .ok (.subS fd fs ft) ∧
    decode (0b010001#6 ++ 0b10001#5 ++ ft ++ fs ++ fd ++ 0b000001#6) = .ok (.subD fd fs ft) ∧
    decode (0b010001#6 ++ 0b00000#5 ++ ft ++ fs ++ fd ++ 0b000010#6) = .ok (.mulS fd fs ft) ∧
    decode (0b010001#6 ++ 0b10001#5 ++ ft ++ fs ++ fd ++ 0b000010#6) = .ok (.mulD fd fs ft) ∧
    decode (0b010001#6 ++ 0b00000#5 ++ ft ++ fs ++ fd ++ 0b000011#6) = .ok (.divS fd fs ft) ∧
    decode (0b010001#6 ++ 0b10001#5 ++ ft ++ fs ++ fd ++ 0b000011#6) = .ok (.divD fd fs ft)

/-! ### The step -/

/-- Where the word at the program counter can be fetched and decodes to `i`, the step is `exec` of `i` at that state and
nothing else (00_scope.md section 4, one instruction step). -/
def Obligations.StepRunsDecodedInstruction : Prop :=
  ∀ (s : State) (i : Instr), WordAccess s .fetch s.pc → decode (loadedWord s s.pc) = .ok i → step s = exec i s

/-- A fetched word that is no instruction raises IllegalOpcode, code 10, and changes nothing else
(60_exceptions.md section 1; the spec's decisions D11 to D13, log 10). -/
def Obligations.IllegalWordTakesCode10 : Prop :=
  ∀ (s : State) (e : IllegalWord), WordAccess s .fetch s.pc → decode (loadedWord s s.pc) = .error e →
    ∃ t, step s = .next t ∧ ExceptionTaken s t 10#32

/-- A fetch from a misaligned or illegal address raises IllegalMemoryAddress, code 4, whatever the word there
(60_exceptions.md section 1; 20_memory.md section 3; the spec's decisions D2 to D4, D26). -/
def Obligations.FailedFetchTakesCode4 : Prop :=
  ∀ s : State, ¬WordAccess s .fetch s.pc → ∃ t, step s = .next t ∧ ExceptionTaken s t 4#32

/-- The machine steps for ever: no step faults, and the only step that is refused is that of a double precision
instruction with an odd register number (70_reset_and_hazards.md section 3; 46_floating_point.md section 4, the spec's
decision D20, log 9). That no step faults holds because `Fault` has no constructor, log 13 (DEDUCED). -/
def Obligations.StepStopsOnlyAtOddRegisterPair : Prop :=
  ∀ s : State, (∀ r, step s ≠ .fault r) ∧
    ∀ r, step s = .refused r ↔
      (r = .oddDoubleRegister ∧ WordAccess s .fetch s.pc ∧
        ∃ op fd fs ft, decode (loadedWord s s.pc) = .ok (doubleInstr op fd fs ft) ∧
          ¬(EvenPair fd ∧ EvenPair fs ∧ EvenPair ft))

/-! ### The whole machine -/

/-- Every step keeps `x[0] = 0` (10_state.md section 1; the spec's decision D6) and the memory's canonical form (the
model's). -/
def Obligations.StepKeepsInvariant : Prop :=
  ∀ s t : State, s.Inv → step s = .next t → t.Inv

/-- The state after reset meets the invariant, its pc is a multiple of 4 and `x[0]` reads zero (70_reset_and_hazards.md
section 1; the value 0 of RESET_PC is the model's choice, log 2). -/
def Obligations.ResetMeetsInvariant : Prop :=
  State.reset.Inv ∧ State.reset.PcAligned ∧ State.reset.gpr 0#5 = 0#32

/-- No step changes ENDIAN, LegalAddr or CAUSE_DIVZERO (10_state.md section 6; that State carries them is the model's
choice, log 4). -/
def Obligations.StepKeepsLaunchParameters : Prop :=
  ∀ s t : State, step s = .next t → SamePlatform s t

/-- `HI` and `LO` change only in a step of `mult`, `multu`, `div` or `divu` (10_state.md section 3). -/
def Obligations.HiLoChangeOnlyByMultiplyDivide : Prop :=
  ∀ s t : State, step s = .next t → ¬SameHiLo s t →
    ∃ i, decode (loadedWord s s.pc) = .ok i ∧
      ∃ rs rt, i = .mult rs rt ∨ i = .multu rs rt ∨ i = .div rs rt ∨ i = .divu rs rt

/-- `EPC` and `CAUSE` change only by exception entry, which does what 60_exceptions.md section 1 says and nothing else,
with one of the four codes (45_exception_moves.md; the spec's decisions D12, D13, D31). -/
def Obligations.ExceptionRegistersChangeOnlyByEntry : Prop :=
  ∀ s t : State, step s = .next t → ¬SameExceptionRegs s t →
    ExceptionTaken s t 10#32 ∨ ExceptionTaken s t 12#32 ∨ ExceptionTaken s t 4#32 ∨
      ExceptionTaken s t s.platform.causeDivZero

/-- A floating point register changes only in a step of `lwc1` or of one of the eight arithmetic instructions that has it
as its destination (46_floating_point.md section 1). -/
def Obligations.FprChangesOnlyAtItsDestination : Prop :=
  ∀ (s t : State) (r : RegNum), step s = .next t → t.fpr r ≠ s.fpr r →
    ∃ i, decode (loadedWord s s.pc) = .ok i ∧
      ((∃ offset rs, i = .lwc1 r offset rs) ∨ (∃ op fs ft, i = singleInstr op r fs ft) ∨
        ∃ op fd fs ft, i = doubleInstr op fd fs ft ∧ (r = fd ∨ r = fd + 1#5))

/-- A byte of memory changes only in a step of `sb` at its effective address, or of `sw` or `swc1` within the four bytes
from theirs (10_state.md section 7; 20_memory.md section 1). -/
def Obligations.MemoryChangesOnlyAtStoredBytes : Prop :=
  ∀ (s t : State) (a : Word), step s = .next t → t.byteAt a ≠ s.byteAt a →
    ∃ i rt offset rs, decode (loadedWord s s.pc) = .ok i ∧
      ((i = .sb rt offset rs ∧ a = s.effectiveAddress rs offset) ∨
        ((i = .sw rt offset rs ∨ i = .swc1 rt offset rs) ∧
          ∃ k : Nat, k < 4 ∧ a = s.effectiveAddress rs offset + BitVec.ofNat 32 k))

/-- From an aligned pc only `jr` and `jalr` lead to a misaligned one (10_state.md section 2; the spec's decision D34). -/
def Obligations.PcAlignmentLostOnlyByRegisterJump : Prop :=
  ∀ s t : State, s.PcAligned → step s = .next t → ¬t.PcAligned →
    ∃ i rd rs, decode (loadedWord s s.pc) = .ok i ∧ (i = .jr rs ∨ i = .jalr rd rs)

/-- Which exception an instruction can take when it executes: the table of 60_exceptions.md section 5. -/
def Obligations.ExecuteStageExceptionTable : Prop :=
  ∀ (i : Instr) (s t : State), exec i s = .next t → ¬SameExceptionRegs s t →
    (ExceptionTaken s t 12#32 ∧
      mnemonicOf i ∈ ["add", "sub", "addi", "add.s", "sub.s", "mul.s", "div.s", "add.d", "sub.d", "mul.d", "div.d"]) ∨
      (ExceptionTaken s t s.platform.causeDivZero ∧ mnemonicOf i ∈ ["div", "divu", "div.s", "div.d"]) ∨
      (ExceptionTaken s t 4#32 ∧ mnemonicOf i ∈ ["lw", "sw", "lbu", "lb", "sb", "lwc1", "swc1"])

/-- The 31 instructions that raise nothing complete in every state, with `EPC` and `CAUSE` as they were
(60_exceptions.md section 5). -/
def Obligations.UnraisingInstructionsComplete : Prop :=
  ∀ (i : Instr) (s : State),
    mnemonicOf i ∈ ["addu", "subu", "mult", "multu", "slt", "sltu", "and", "or", "nor", "xor", "addiu", "slti", "sltiu",
      "andi", "ori", "xori", "lui", "beq", "bne", "blez", "bgtz", "bltz", "j", "jal", "jr", "jalr", "nop", "mfhi", "mflo",
      "mfepc", "mfco"] →
    ∃ t, exec i s = .next t ∧ SameExceptionRegs s t

/-! ### Register arithmetic and logic -/

/-- `x[0]` reads as zero in every state, a write to it changes nothing, and an instruction whose destination it is only
advances the pc (10_state.md section 1, the spec's decision D6; 30_encoding.md section 4). -/
def Obligations.RegisterZeroIsHardwired : Prop :=
  ∀ (s : State) (v : Word) (rs rt : RegNum), s.gpr 0#5 = 0#32 ∧ s.setGpr 0#5 v = s ∧
    ∃ t, exec (.addu 0#5 rs rt) s = .next t ∧ t.pc = s.pc + 4#32 ∧ NothingWritten s t

/-- R112, R114: `addu` and `subu`, from the word to the new state. -/
def Obligations.AdduSubuModulo : Prop :=
  ∀ (s : State) (rd rs rt : RegNum),
    decode (0b000000#6 ++ rs ++ rt ++ rd ++ 0b00000#5 ++ 0b100001#6) = .ok (.addu rd rs rt) ∧
    (∃ t, exec (.addu rd rs rt) s = .next t ∧ t.pc = s.pc + 4#32 ∧ GprWritten s t rd (s.gpr rs + s.gpr rt)) ∧
    decode (0b000000#6 ++ rs ++ rt ++ rd ++ 0b00000#5 ++ 0b100011#6) = .ok (.subu rd rs rt) ∧
    (∃ t, exec (.subu rd rs rt) s = .next t ∧ t.pc = s.pc + 4#32 ∧ GprWritten s t rd (s.gpr rs - s.gpr rt))

/-- `add`, `sub` and `addi` write the exact signed result where it fits in 32 bits (40_arith_register.md section 2;
41_arith_immediate.md). -/
def Obligations.AddSubAddiExactInRange : Prop :=
  ∀ (s : State) (rd rs rt : RegNum) (imm : Imm16) (z : Int), -2147483648 ≤ z → z ≤ 2147483647 →
    (z = (s.gpr rs).toInt + (s.gpr rt).toInt →
      ∃ t v, exec (.add rd rs rt) s = .next t ∧ t.pc = s.pc + 4#32 ∧ v.toInt = z ∧ GprWritten s t rd v) ∧
    (z = (s.gpr rs).toInt - (s.gpr rt).toInt →
      ∃ t v, exec (.sub rd rs rt) s = .next t ∧ t.pc = s.pc + 4#32 ∧ v.toInt = z ∧ GprWritten s t rd v) ∧
    (z = (s.gpr rs).toInt + imm.toInt →
      ∃ t v, exec (.addi rt rs imm) s = .next t ∧ t.pc = s.pc + 4#32 ∧ v.toInt = z ∧ GprWritten s t rt v)

/-- `add`, `sub` and `addi` raise Overflow, code 12, where the exact signed result does not fit, also when the destination
is `x[0]` (40_arith_register.md section 2; 41_arith_immediate.md; 60_exceptions.md section 1; the spec's decisions D5, D12,
D13). -/
def Obligations.AddSubAddiOverflowTakesCode12 : Prop :=
  ∀ (s : State) (rd rs rt : RegNum) (imm : Imm16) (z : Int), z < -2147483648 ∨ 2147483647 < z →
    (z = (s.gpr rs).toInt + (s.gpr rt).toInt → ∃ t, exec (.add rd rs rt) s = .next t ∧ ExceptionTaken s t 12#32) ∧
    (z = (s.gpr rs).toInt - (s.gpr rt).toInt → ∃ t, exec (.sub rd rs rt) s = .next t ∧ ExceptionTaken s t 12#32) ∧
    (z = (s.gpr rs).toInt + imm.toInt → ∃ t, exec (.addi rt rs imm) s = .next t ∧ ExceptionTaken s t 12#32)

/-- `add` overflows exactly when the operands' signs agree and the sum's differs, `sub` exactly when the operands' signs
differ and the difference's is not the minuend's (40_arith_register.md section 2, corner cases). -/
def Obligations.OverflowBySignBits : Prop :=
  ∀ a b : Word,
    (addOverflows a b = true ↔ a.msb = b.msb ∧ (a + b).msb ≠ a.msb) ∧
    (subOverflows a b = true ↔ a.msb ≠ b.msb ∧ (a - b).msb ≠ a.msb)

/-- `mult` and `multu` leave the full 64-bit product in `HI || LO`, and their low words agree (40_arith_register.md
sections 3 and 6). -/
def Obligations.MultiplyFullProduct : Prop :=
  ∀ (s : State) (rs rt : RegNum), ∃ t u : State,
    exec (.mult rs rt) s = .next t ∧ t.pc = s.pc + 4#32 ∧ HiLoWritten s t t.hi t.lo ∧
    (t.hi ++ t.lo).toInt = (s.gpr rs).toInt * (s.gpr rt).toInt ∧
    exec (.multu rs rt) s = .next u ∧ u.pc = s.pc + 4#32 ∧ HiLoWritten s u u.hi u.lo ∧
    (u.hi ++ u.lo).toNat = (s.gpr rs).toNat * (s.gpr rt).toNat ∧
    u.lo = t.lo

/-- `div` leaves the quotient rounded toward zero in `LO` and the remainder, zero or of the dividend's sign, in `HI`; for
`-2^31 / -1` it leaves `LO = 0x80000000, HI = 0` with no exception (40_arith_register.md sections 3 and 6; the spec's
decisions D8 and D10, the latter log 10). -/
def Obligations.DivideSigned : Prop :=
  ∀ (s : State) (rs rt : RegNum), s.gpr rt ≠ 0#32 →
    (¬(s.gpr rs = 0x80000000#32 ∧ s.gpr rt = 0xFFFFFFFF#32) →
      ∃ t, exec (.div rs rt) s = .next t ∧ t.pc = s.pc + 4#32 ∧ HiLoWritten s t t.hi t.lo ∧
        (s.gpr rs).toInt = t.lo.toInt * (s.gpr rt).toInt + t.hi.toInt ∧ |t.hi.toInt| < |(s.gpr rt).toInt| ∧
        (t.hi.toInt = 0 ∨ (t.hi.toInt < 0 ↔ (s.gpr rs).toInt < 0))) ∧
    (s.gpr rs = 0x80000000#32 → s.gpr rt = 0xFFFFFFFF#32 →
      ∃ t, exec (.div rs rt) s = .next t ∧ t.pc = s.pc + 4#32 ∧ HiLoWritten s t 0#32 0x80000000#32)

/-- `divu` leaves quotient and remainder of the unsigned division (40_arith_register.md sections 3 and 6; the spec's
decision D8). -/
def Obligations.DivideUnsigned : Prop :=
  ∀ (s : State) (rs rt : RegNum), s.gpr rt ≠ 0#32 →
    ∃ t, exec (.divu rs rt) s = .next t ∧ t.pc = s.pc + 4#32 ∧ HiLoWritten s t t.hi t.lo ∧
      (s.gpr rs).toNat = t.lo.toNat * (s.gpr rt).toNat + t.hi.toNat ∧ t.hi.toNat < (s.gpr rt).toNat

/-- `div` and `divu` by zero raise DivisionByZero with the launch's code and leave `HI` and `LO`
(60_exceptions.md section 1; the spec's decision D9). -/
def Obligations.DivideByZeroTraps : Prop :=
  ∀ (s : State) (rs rt : RegNum), s.gpr rt = 0#32 →
    (∃ t, exec (.div rs rt) s = .next t ∧ ExceptionTaken s t s.platform.causeDivZero) ∧
    (∃ t, exec (.divu rs rt) s = .next t ∧ ExceptionTaken s t s.platform.causeDivZero)

/-- R120, R143, R144: `sltu`, `slti` and `sltiu`, from the word to the new state. -/
def Obligations.SltuSltiSltiuCompare : Prop :=
  ∀ (s : State) (rd rs rt : RegNum) (imm : Imm16),
    let simm : Word := (if imm.getLsbD 15 then 0xFFFF#16 else 0x0000#16) ++ imm
    decode (0b000000#6 ++ rs ++ rt ++ rd ++ 0b00000#5 ++ 0b101011#6) = .ok (.sltu rd rs rt) ∧
    (∃ t, exec (.sltu rd rs rt) s = .next t ∧ t.pc = s.pc + 4#32 ∧
      GprWritten s t rd (if (s.gpr rs).toNat < (s.gpr rt).toNat then 1#32 else 0#32)) ∧
    decode (0b001010#6 ++ rs ++ rt ++ imm) = .ok (.slti rt rs imm) ∧
    (∃ t, exec (.slti rt rs imm) s = .next t ∧ t.pc = s.pc + 4#32 ∧
      GprWritten s t rt (if (s.gpr rs).toInt < simm.toInt then 1#32 else 0#32)) ∧
    decode (0b001011#6 ++ rs ++ rt ++ imm) = .ok (.sltiu rt rs imm) ∧
    (∃ t, exec (.sltiu rt rs imm) s = .next t ∧ t.pc = s.pc + 4#32 ∧
      GprWritten s t rt (if (s.gpr rs).toNat < simm.toNat then 1#32 else 0#32))

/-- `slt` compares signed, `and` and `xor` combine bit by bit (40_arith_register.md sections 4 and 5; the functs of `slt`
and `and` are the spec's general knowledge, that of `xor` its decision D29, log 10). -/
def Obligations.SltAndXorResults : Prop :=
  ∀ (s : State) (rd rs rt : RegNum),
    (∃ t, exec (.slt rd rs rt) s = .next t ∧ t.pc = s.pc + 4#32 ∧
      GprWritten s t rd (if (s.gpr rs).toInt < (s.gpr rt).toInt then 1#32 else 0#32)) ∧
    (∃ t v, exec (.and rd rs rt) s = .next t ∧ t.pc = s.pc + 4#32 ∧ GprWritten s t rd v ∧
      ∀ k, v.getLsbD k = ((s.gpr rs).getLsbD k && (s.gpr rt).getLsbD k)) ∧
    (∃ t v, exec (.xor rd rs rt) s = .next t ∧ t.pc = s.pc + 4#32 ∧ GprWritten s t rd v ∧
      ∀ k, v.getLsbD k = ((s.gpr rs).getLsbD k != (s.gpr rt).getLsbD k))

/-- R122, R123: `or` and `nor`, from the word to the new state. -/
def Obligations.OrNorBitwise : Prop :=
  ∀ (s : State) (rd rs rt : RegNum),
    decode (0b000000#6 ++ rs ++ rt ++ rd ++ 0b00000#5 ++ 0b100101#6) = .ok (.or rd rs rt) ∧
    (∃ t v, exec (.or rd rs rt) s = .next t ∧ t.pc = s.pc + 4#32 ∧ GprWritten s t rd v ∧
      ∀ k < 32, v.getLsbD k = ((s.gpr rs).getLsbD k || (s.gpr rt).getLsbD k)) ∧
    decode (0b000000#6 ++ rs ++ rt ++ rd ++ 0b00000#5 ++ 0b100111#6) = .ok (.nor rd rs rt) ∧
    (∃ t v, exec (.nor rd rs rt) s = .next t ∧ t.pc = s.pc + 4#32 ∧ GprWritten s t rd v ∧
      ∀ k < 32, v.getLsbD k = !((s.gpr rs).getLsbD k || (s.gpr rt).getLsbD k))

/-! ### Immediates -/

/-- R142: `addiu`, from the word to the new state. -/
def Obligations.AddiuModulo : Prop :=
  ∀ (s : State) (rt rs : RegNum) (imm : Imm16),
    decode (0b001001#6 ++ rs ++ rt ++ imm) = .ok (.addiu rt rs imm) ∧
    ∃ t, exec (.addiu rt rs imm) s = .next t ∧ t.pc = s.pc + 4#32 ∧
      GprWritten s t rt (s.gpr rs + ((if imm.getLsbD 15 then 0xFFFF#16 else 0x0000#16) ++ imm))

/-- R145, R146, R147: `andi`, `ori` and `xori`, from the word to the new state; the immediate is zero-extended. -/
def Obligations.LogicalImmediatesZeroExtend : Prop :=
  ∀ (s : State) (rt rs : RegNum) (imm : Imm16),
    decode (0b001100#6 ++ rs ++ rt ++ imm) = .ok (.andi rt rs imm) ∧
    (∃ t, exec (.andi rt rs imm) s = .next t ∧ t.pc = s.pc + 4#32 ∧ GprWritten s t rt (s.gpr rs &&& (0x0000#16 ++ imm))) ∧
    decode (0b001101#6 ++ rs ++ rt ++ imm) = .ok (.ori rt rs imm) ∧
    (∃ t, exec (.ori rt rs imm) s = .next t ∧ t.pc = s.pc + 4#32 ∧ GprWritten s t rt (s.gpr rs ||| (0x0000#16 ++ imm))) ∧
    decode (0b001110#6 ++ rs ++ rt ++ imm) = .ok (.xori rt rs imm) ∧
    (∃ t, exec (.xori rt rs imm) s = .next t ∧ t.pc = s.pc + 4#32 ∧ GprWritten s t rt (s.gpr rs ^^^ (0x0000#16 ++ imm)))

/-- `lui`, from the word to the new state; no memory access, no exception, whatever the launch allows (42_load_store.md
R166). That a word with `rs` not 00000 is no instruction is STRICT_FIELDS (30_encoding.md R92), the spec's decision D11 and
log 10 (DESIGN CHOICE). -/
def Obligations.LuiUpperImmediate : Prop :=
  ∀ (s : State) (rt : RegNum) (imm : Imm16),
    decode (0b001111#6 ++ 0b00000#5 ++ rt ++ imm) = .ok (.lui rt imm) ∧
    (∀ rs : RegNum, rs ≠ 0#5 → ∃ e, decode (0b001111#6 ++ rs ++ rt ++ imm) = .error e) ∧
    ∃ t, exec (.lui rt imm) s = .next t ∧ t.pc = s.pc + 4#32 ∧ GprWritten s t rt (imm ++ 0x0000#16)

/-! ### Memory -/

/-- `lw` and `lwc1` copy the word at the effective address, assembled in the launch's byte order
(42_load_store.md; 46_floating_point.md section 2; 20_memory.md sections 1, 2 and 7; the spec's decision D1). -/
def Obligations.WordLoads : Prop :=
  ∀ (s : State) (rt : RegNum) (offset : Imm16) (rs : RegNum) (ea : Word), ea = s.gpr rs + offset.signExtend 32 →
    WordAccess s .load ea →
    (∃ t, exec (.lw rt offset rs) s = .next t ∧ t.pc = s.pc + 4#32 ∧ GprWritten s t rt (loadedWord s ea)) ∧
    (∃ t, exec (.lwc1 rt offset rs) s = .next t ∧ t.pc = s.pc + 4#32 ∧ FprWritten s t rt (loadedWord s ea) 0)

/-- `lbu` zero-extends and `lb` sign-extends the byte at the effective address, at any alignment and in either byte order
(42_load_store.md; 20_memory.md sections 1, 3 and 7). -/
def Obligations.ByteLoads : Prop :=
  ∀ (s : State) (rt : RegNum) (offset : Imm16) (rs : RegNum) (ea : Word), ea = s.gpr rs + offset.signExtend 32 →
    ByteAccess s .load ea →
    (∃ t, exec (.lbu rt offset rs) s = .next t ∧ t.pc = s.pc + 4#32 ∧ GprWritten s t rt (0#24 ++ s.byteAt ea)) ∧
    (∃ t, exec (.lb rt offset rs) s = .next t ∧ t.pc = s.pc + 4#32 ∧
      GprWritten s t rt ((if (s.byteAt ea).getLsbD 7 then 0xFFFFFF#24 else 0x000000#24) ++ s.byteAt ea))

/-- `sw` and `swc1` set the four bytes from the effective address in the launch's byte order and change nothing else
(42_load_store.md; 46_floating_point.md section 2; 20_memory.md sections 1, 2 and 7; the spec's decision D1). -/
def Obligations.WordStores : Prop :=
  ∀ (s : State) (rt : RegNum) (offset : Imm16) (rs : RegNum), WordAccess s .store (s.effectiveAddress rs offset) →
    s.effectiveAddress rs offset = s.gpr rs + offset.signExtend 32 ∧
    (∃ t, exec (.sw rt offset rs) s = .next t ∧ t.pc = s.pc + 4#32 ∧
      MemoryWritten s t (storedWord s.platform.endian (s.effectiveAddress rs offset) (s.gpr rt))) ∧
    (∃ t, exec (.swc1 rt offset rs) s = .next t ∧ t.pc = s.pc + 4#32 ∧
      MemoryWritten s t (storedWord s.platform.endian (s.effectiveAddress rs offset) (s.fpr rt)))

/-- `sb` sets the one byte at the effective address to the low 8 bits of the register and changes nothing else
(42_load_store.md; 20_memory.md sections 1, 3 and 7). -/
def Obligations.ByteStore : Prop :=
  ∀ (s : State) (rt : RegNum) (offset : Imm16) (rs : RegNum), ByteAccess s .store (s.effectiveAddress rs offset) →
    s.effectiveAddress rs offset = s.gpr rs + offset.signExtend 32 ∧
    ∃ t, exec (.sb rt offset rs) s = .next t ∧ t.pc = s.pc + 4#32 ∧
      MemoryWritten s t (storedByte (s.effectiveAddress rs offset) ((s.gpr rt).extractLsb' 0 8))

/-- A load or store whose access fails its checks raises IllegalMemoryAddress, code 4, and changes no register and no byte
(20_memory.md sections 3 and 7; 60_exceptions.md section 1; the spec's decisions D2 to D5). -/
def Obligations.FailedDataAccessTakesCode4 : Prop :=
  ∀ (s : State) (r : RegNum) (offset : Imm16) (rs : RegNum) (ea : Word), ea = s.gpr rs + offset.signExtend 32 →
    (¬WordAccess s .load ea → ∀ i, i = .lw r offset rs ∨ i = .lwc1 r offset rs →
      ∃ t, exec i s = .next t ∧ ExceptionTaken s t 4#32) ∧
    (¬WordAccess s .store ea → ∀ i, i = .sw r offset rs ∨ i = .swc1 r offset rs →
      ∃ t, exec i s = .next t ∧ ExceptionTaken s t 4#32) ∧
    (¬ByteAccess s .load ea → ∀ i, i = .lb r offset rs ∨ i = .lbu r offset rs →
      ∃ t, exec i s = .next t ∧ ExceptionTaken s t 4#32) ∧
    (¬ByteAccess s .store ea → ∃ t, exec (.sb r offset rs) s = .next t ∧ ExceptionTaken s t 4#32)

/-- After `sw` at `A`, `lbu` from `A + k` returns byte `k` of the word from the most significant end with `big`, from the
least significant end with `little` (20_memory.md section 2; the spec's decision D1). -/
def Obligations.WordStoreThenByteLoad : Prop :=
  ∀ (s : State) (rt : RegNum) (offset : Imm16) (rs : RegNum), WordAccess s .store (s.effectiveAddress rs offset) →
    ∃ t, exec (.sw rt offset rs) s = .next t ∧
      ∀ (rd : RegNum) (offset' : Imm16) (rb : RegNum) (k : Nat), rd ≠ 0#5 → k < 4 →
        t.effectiveAddress rb offset' = s.effectiveAddress rs offset + BitVec.ofNat 32 k →
        ByteAccess t .load (t.effectiveAddress rb offset') →
        ∃ u, exec (.lbu rd offset' rb) t = .next u ∧
          u.gpr rd = ((s.gpr rt).extractLsb' (if s.platform.endian = .big then 24 - 8 * k else 8 * k) 8).zeroExtend 32

/-- A stored word is the instruction that the next fetch from its address runs (20_memory.md section 6; the spec's decision
D23, which a chip with an instruction cache need not follow). -/
def Obligations.StoredWordIsFetched : Prop :=
  ∀ (s : State) (rt : RegNum) (offset : Imm16) (rs : RegNum) (i : Instr),
    WordAccess s .store (s.effectiveAddress rs offset) → decode (s.gpr rt) = .ok i →
    ∃ t, exec (.sw rt offset rs) s = .next t ∧
      ∀ u : State, SameMemory t u → SamePlatform t u → u.pc = s.effectiveAddress rs offset → WordAccess u .fetch u.pc →
        step u = exec i u

/-! ### Branches and jumps -/

/-- R183, R184: `beq` and `bne`, from the word to the new state. -/
def Obligations.BeqBneBranch : Prop :=
  ∀ (s : State) (rs rt : RegNum) (offset : Imm16),
    decode (0b000100#6 ++ rs ++ rt ++ offset) = .ok (.beq rs rt offset) ∧
    (∃ t, exec (.beq rs rt offset) s = .next t ∧ NothingWritten s t ∧
      t.pc = if s.gpr rs = s.gpr rt then s.pc + 4#32 + displacement offset else s.pc + 4#32) ∧
    decode (0b000101#6 ++ rs ++ rt ++ offset) = .ok (.bne rs rt offset) ∧
    (∃ t, exec (.bne rs rt offset) s = .next t ∧ NothingWritten s t ∧
      t.pc = if s.gpr rs = s.gpr rt then s.pc + 4#32 else s.pc + 4#32 + displacement offset)

/-- `blez`, `bgtz` and `bltz`, from the word to the new state (43_branch_jump.md R185 to R187, `blez` as 90_conflicts.md C4
reads it). That a word with `rt` not 00000 is no instruction is STRICT_FIELDS (30_encoding.md R88, R92), the spec's decision
D11 and log 10 (DESIGN CHOICE). -/
def Obligations.SignBranches : Prop :=
  ∀ (s : State) (rs : RegNum) (offset : Imm16),
    decode (0b000110#6 ++ rs ++ 0b00000#5 ++ offset) = .ok (.blez rs offset) ∧
    (∃ t, exec (.blez rs offset) s = .next t ∧ NothingWritten s t ∧
      t.pc = if (s.gpr rs).toInt ≤ 0 then s.pc + 4#32 + displacement offset else s.pc + 4#32) ∧
    decode (0b000111#6 ++ rs ++ 0b00000#5 ++ offset) = .ok (.bgtz rs offset) ∧
    (∃ t, exec (.bgtz rs offset) s = .next t ∧ NothingWritten s t ∧
      t.pc = if 0 < (s.gpr rs).toInt then s.pc + 4#32 + displacement offset else s.pc + 4#32) ∧
    decode (0b000001#6 ++ rs ++ 0b00000#5 ++ offset) = .ok (.bltz rs offset) ∧
    (∃ t, exec (.bltz rs offset) s = .next t ∧ NothingWritten s t ∧
      t.pc = if (s.gpr rs).toInt < 0 then s.pc + 4#32 + displacement offset else s.pc + 4#32) ∧
    (∀ rt : RegNum, rt ≠ 0#5 → ∀ op : BitVec 6, op = 6#6 ∨ op = 7#6 ∨ op = 1#6 →
      ∃ e, decode (op ++ rs ++ rt ++ offset) = .error e)

/-- A branch that is taken, any of the five with any registers, goes to `pc + 4 + 4 * offset` modulo 2^32 and writes
nothing; from an aligned pc the target is aligned, the offset -1 leads to the branch itself and the offset 0 to the next
instruction (43_branch_jump.md R181). -/
def Obligations.TakenBranchTarget : Prop :=
  ∀ (i : Instr) (s : State) (rs rt : RegNum) (offset : Imm16),
    (i = .beq rs rt offset ∧ s.gpr rs = s.gpr rt) ∨ (i = .bne rs rt offset ∧ s.gpr rs ≠ s.gpr rt) ∨
      (i = .blez rs offset ∧ (s.gpr rs).toInt ≤ 0) ∨ (i = .bgtz rs offset ∧ 0 < (s.gpr rs).toInt) ∨
      (i = .bltz rs offset ∧ (s.gpr rs).toInt < 0) →
    ∃ t, exec i s = .next t ∧ NothingWritten s t ∧
      ((t.pc.toNat : Int) - (s.pc.toNat + 4 + 4 * offset.toInt)) % 2 ^ 32 = 0 ∧
      (s.PcAligned → t.PcAligned) ∧ (offset = 0xFFFF#16 → t.pc = s.pc) ∧ (offset = 0#16 → t.pc = s.pc + 4#32)

/-- R188: `j`, from the word to the new state; the target keeps the jump's own region. -/
def Obligations.JumpWithinRegion : Prop :=
  ∀ (s : State) (target : Target26),
    decode (0b000010#6 ++ target) = .ok (.j target) ∧
    ∃ t, exec (.j target) s = .next t ∧ NothingWritten s t ∧ t.pc = s.pc.extractLsb' 28 4 ++ target ++ 0b00#2 ∧
      t.pc.toNat % 4 = 0

/-- `jal` links `pc + 4` in `x[31]` and jumps within its region; `jalr` links in `x[rd]` and jumps to the old `x[rs]`, also
when `rd = rs` (43_branch_jump.md section 3; the spec's decision D7; the op-code of `jal` is its general knowledge). -/
def Obligations.JumpAndLink : Prop :=
  ∀ (s : State) (target : Target26) (rd rs : RegNum),
    (∃ t, exec (.jal target) s = .next t ∧ GprWritten s t 31#5 (s.pc + 4#32) ∧
      t.pc = s.pc.extractLsb' 28 4 ++ target ++ 0b00#2) ∧
    (∃ t, exec (.jalr rd rs) s = .next t ∧ GprWritten s t rd (s.pc + 4#32) ∧ t.pc = s.gpr rs)

/-- `jr` copies all 32 bits of the register; if they are misaligned the jump is still made and the next step raises
IllegalMemoryAddress with `EPC` the misaligned address (43_branch_jump.md section 3; 10_state.md section 2; the spec's
decisions D4, D34). -/
def Obligations.RegisterJumpThenFetch : Prop :=
  ∀ (s : State) (rs : RegNum), ∃ t, exec (.jr rs) s = .next t ∧ NothingWritten s t ∧ t.pc = s.gpr rs ∧
    ((s.gpr rs).toNat % 4 ≠ 0 → ∃ u, step t = .next u ∧ ExceptionTaken t u 4#32 ∧ u.epc = s.gpr rs)

/-! ### Moves, exceptions -/

/-- `nop` only advances the pc; `mfhi`, `mflo`, `mfepc` and `mfco` copy their register and leave it as it was
(44_nop_hilo.md; 45_exception_moves.md; the words are the spec's general knowledge). -/
def Obligations.NopAndMoves : Prop :=
  ∀ (s : State) (r : RegNum),
    (∃ t, exec .nop s = .next t ∧ t.pc = s.pc + 4#32 ∧ NothingWritten s t) ∧
    (∃ t, exec (.mfhi r) s = .next t ∧ t.pc = s.pc + 4#32 ∧ GprWritten s t r s.hi) ∧
    (∃ t, exec (.mflo r) s = .next t ∧ t.pc = s.pc + 4#32 ∧ GprWritten s t r s.lo) ∧
    (∃ t, exec (.mfepc r) s = .next t ∧ t.pc = s.pc + 4#32 ∧ GprWritten s t r s.epc) ∧
    (∃ t, exec (.mfco r) s = .next t ∧ t.pc = s.pc + 4#32 ∧ GprWritten s t r s.cause)

/-- The documented return sequence resumes after the instruction that raised, or at it without the `addiu`, and destroys
one register (60_exceptions.md section 3; the spec's decision D35). -/
def Obligations.ReturnFromException : Prop :=
  ∀ (s : State) (k : RegNum), k ≠ 0#5 → ∃ t1 t2 t3 u : State,
    exec (.mfepc k) s = .next t1 ∧ exec (.addiu k k 4#16) t1 = .next t2 ∧ exec (.jr k) t2 = .next t3 ∧
    t3.pc = s.epc + 4#32 ∧ GprWritten s t3 k (s.epc + 4#32) ∧
    exec (.jr k) t1 = .next u ∧ u.pc = s.epc ∧ GprWritten s u k s.epc

/-- Where the vector itself cannot be fetched the machine loops there for ever with `EPC = 0x80000180` and `CAUSE = 4`
(60_exceptions.md section 3; the spec's decision D27). -/
def Obligations.UnfetchableVectorLoops : Prop :=
  ∀ s : State, s.pc = 0x80000180#32 → legalAddr s.platform 0x80000180#32 .word .fetch = false →
    ∀ n : Nat, ∃ t, runUntil (fun _ => false) (n + 1) s = .next t ∧ ExceptionTaken s t 4#32

/-! ### Floating point -/

/-- Single precision arithmetic (`add.s`, `sub.s`, `mul.s`, `div.s`) on finite operands delivers the number nearest to the
exact result, ties to even, where that lies within the format (46_floating_point.md sections 3 and 4; the spec's decision
D16, log 10; that a subnormal result is rounded once is the model's reading, log 11). -/
def Obligations.SingleArithmeticRoundsToNearest : Prop :=
  ∀ (op : FpOperation) (s : State) (fd fs ft : RegNum) (z : ℚ), SingleFinite (s.fpr fs) → SingleFinite (s.fpr ft) →
    (op = .div → ¬SingleZero (s.fpr ft)) → z = exactResult op (singleValue (s.fpr fs)) (singleValue (s.fpr ft)) →
    |z| < singleLimit →
    ∃ t v, exec (singleInstr op fd fs ft) s = .next t ∧ t.pc = s.pc + 4#32 ∧ SingleNearest v z ∧ FprWritten s t fd v 0

/-- Double precision arithmetic (`add.d`, `sub.d`, `mul.d`, `div.d`) on finite operands delivers the number nearest to the
exact result in the destination pair (46_floating_point.md sections 3 and 4; the spec's decisions D16, D19, log 10; that a
subnormal result is rounded once is the model's reading, log 11). -/
def Obligations.DoubleArithmeticRoundsToNearest : Prop :=
  ∀ (op : FpOperation) (s : State) (fd fs ft : RegNum) (z : ℚ), EvenPair fd → EvenPair fs → EvenPair ft →
    DoubleFinite (doubleAt s fs) → DoubleFinite (doubleAt s ft) → (op = .div → ¬DoubleZero (doubleAt s ft)) →
    z = exactResult op (doubleValue (doubleAt s fs)) (doubleValue (doubleAt s ft)) → |z| < doubleLimit →
    ∃ t v, exec (doubleInstr op fd fs ft) s = .next t ∧ t.pc = s.pc + 4#32 ∧ DoubleNearest v z ∧
      FprPairWritten s t fd v 0

/-- Where the exact result of finite operands rounds beyond the largest finite number, the instruction raises Overflow,
code 12, and writes no infinity (46_floating_point.md section 4; the spec's decision D17). -/
def Obligations.FloatOverflowTakesCode12 : Prop :=
  ∀ (op : FpOperation) (s : State) (fd fs ft : RegNum) (z : ℚ),
    (SingleFinite (s.fpr fs) → SingleFinite (s.fpr ft) → (op = .div → ¬SingleZero (s.fpr ft)) →
      z = exactResult op (singleValue (s.fpr fs)) (singleValue (s.fpr ft)) → singleLimit ≤ |z| →
      ∃ t, exec (singleInstr op fd fs ft) s = .next t ∧ ExceptionTaken s t 12#32) ∧
    (EvenPair fd → EvenPair fs → EvenPair ft → DoubleFinite (doubleAt s fs) → DoubleFinite (doubleAt s ft) →
      (op = .div → ¬DoubleZero (doubleAt s ft)) →
      z = exactResult op (doubleValue (doubleAt s fs)) (doubleValue (doubleAt s ft)) → doubleLimit ≤ |z| →
      ∃ t, exec (doubleInstr op fd fs ft) s = .next t ∧ ExceptionTaken s t 12#32)

/-- A finite non-zero number divided by `+0` or `-0` raises DivisionByZero with the launch's code
(46_floating_point.md section 4; the spec's decision D18). -/
def Obligations.FloatDivideByZeroTraps : Prop :=
  ∀ (s : State) (fd fs ft : RegNum),
    (SingleFinite (s.fpr fs) → ¬SingleZero (s.fpr fs) → SingleZero (s.fpr ft) →
      ∃ t, exec (.divS fd fs ft) s = .next t ∧ ExceptionTaken s t s.platform.causeDivZero) ∧
    (EvenPair fd → EvenPair fs → EvenPair ft → DoubleFinite (doubleAt s fs) → ¬DoubleZero (doubleAt s fs) →
      DoubleZero (doubleAt s ft) →
      ∃ t, exec (.divD fd fs ft) s = .next t ∧ ExceptionTaken s t s.platform.causeDivZero)

/-- An operation with a NaN operand, and an invalid one, delivers some quiet NaN with no exception
(46_floating_point.md section 4; the spec's decision D21; which one is free, and that it takes one draw is the model's
choice, log 8). -/
def Obligations.InvalidOperationGivesQuietNaN : Prop :=
  ∀ (op : FpOperation) (s : State) (fd fs ft : RegNum),
    (SingleInvalid op (s.fpr fs) (s.fpr ft) →
      ∃ t v, exec (singleInstr op fd fs ft) s = .next t ∧ t.pc = s.pc + 4#32 ∧ SingleQuietNaN v ∧
        FprWritten s t fd v 1) ∧
    (EvenPair fd → EvenPair fs → EvenPair ft → DoubleInvalid op (doubleAt s fs) (doubleAt s ft) →
      ∃ t v, exec (doubleInstr op fd fs ft) s = .next t ∧ t.pc = s.pc + 4#32 ∧ DoubleQuietNaN v ∧
        FprPairWritten s t fd v 1)

/-- A valid operation with an infinite operand delivers the infinity, or for a finite number divided by an infinity the
zero, of the sign the operation gives, with no exception (46_floating_point.md section 4; the spec's decision D16, log 10). -/
def Obligations.InfiniteOperandResults : Prop :=
  ∀ (op : FpOperation) (s : State) (fd fs ft : RegNum),
    (¬SingleInvalid op (s.fpr fs) (s.fpr ft) → SingleInfinite (s.fpr fs) ∨ SingleInfinite (s.fpr ft) →
      ∃ t, exec (singleInstr op fd fs ft) s = .next t ∧ t.pc = s.pc + 4#32 ∧
        FprWritten s t fd (singleInfiniteResult op (s.fpr fs) (s.fpr ft)) 0) ∧
    (EvenPair fd → EvenPair fs → EvenPair ft → ¬DoubleInvalid op (doubleAt s fs) (doubleAt s ft) →
      DoubleInfinite (doubleAt s fs) ∨ DoubleInfinite (doubleAt s ft) →
      ∃ t, exec (doubleInstr op fd fs ft) s = .next t ∧ t.pc = s.pc + 4#32 ∧
        FprPairWritten s t fd (doubleInfiniteResult op (doubleAt s fs) (doubleAt s ft)) 0)

/-- Where the exact result of finite operands is 0 the zero delivered has the sign of 46_floating_point.md section 4 (the
spec's decision D16). -/
def Obligations.ExactZeroKeepsItsSign : Prop :=
  ∀ (op : FpOperation) (s : State) (fd fs ft : RegNum),
    (SingleFinite (s.fpr fs) → SingleFinite (s.fpr ft) → (op = .div → ¬SingleZero (s.fpr ft)) →
      exactResult op (singleValue (s.fpr fs)) (singleValue (s.fpr ft)) = 0 →
      ∃ t, exec (singleInstr op fd fs ft) s = .next t ∧ t.pc = s.pc + 4#32 ∧
        FprWritten s t fd (singleZeroResult op (s.fpr fs) (s.fpr ft)) 0) ∧
    (EvenPair fd → EvenPair fs → EvenPair ft → DoubleFinite (doubleAt s fs) → DoubleFinite (doubleAt s ft) →
      (op = .div → ¬DoubleZero (doubleAt s ft)) →
      exactResult op (doubleValue (doubleAt s fs)) (doubleValue (doubleAt s ft)) = 0 →
      ∃ t, exec (doubleInstr op fd fs ft) s = .next t ∧ t.pc = s.pc + 4#32 ∧
        FprPairWritten s t fd (doubleZeroResult op (doubleAt s fs) (doubleAt s ft)) 0)

/-- A double precision instruction with an odd register number is refused whatever the state (46_floating_point.md
section 4; the spec's decision D20, log 9). -/
def Obligations.OddRegisterPairRefused : Prop :=
  ∀ (op : FpOperation) (s : State) (fd fs ft : RegNum), ¬(EvenPair fd ∧ EvenPair fs ∧ EvenPair ft) →
    exec (doubleInstr op fd fs ft) s = .refused .oddDoubleRegister
end

