-- ==== Sys2Proof/Laws/Encoding.lean ====
section
/-! SUPPORT. The fields of the three figures, and the figures under the masks of the opcode table. -/

namespace Sys2Proof

/-! ### Fields of a figure (30_encoding.md R81 to R84) -/

@[simp] theorem fieldOp_rFigure (op : BitVec 6) (rs rt rd sa : RegNum) (fn : BitVec 6) :
    fieldOp (rFigure op rs rt rd sa fn) = op := by
  apply BitVec.eq_of_getLsbD_eq; intro i hi
  simp only [fieldOp, rFigure, BitVec.getLsbD_extractLsb', BitVec.getLsbD_append]
  interval_cases i <;> simp

@[simp] theorem fieldRs_rFigure (op : BitVec 6) (rs rt rd sa : RegNum) (fn : BitVec 6) :
    fieldRs (rFigure op rs rt rd sa fn) = rs := by
  apply BitVec.eq_of_getLsbD_eq; intro i hi
  simp only [fieldRs, rFigure, BitVec.getLsbD_extractLsb', BitVec.getLsbD_append]
  interval_cases i <;> simp

@[simp] theorem fieldRt_rFigure (op : BitVec 6) (rs rt rd sa : RegNum) (fn : BitVec 6) :
    fieldRt (rFigure op rs rt rd sa fn) = rt := by
  apply BitVec.eq_of_getLsbD_eq; intro i hi
  simp only [fieldRt, rFigure, BitVec.getLsbD_extractLsb', BitVec.getLsbD_append]
  interval_cases i <;> simp

@[simp] theorem fieldRd_rFigure (op : BitVec 6) (rs rt rd sa : RegNum) (fn : BitVec 6) :
    fieldRd (rFigure op rs rt rd sa fn) = rd := by
  apply BitVec.eq_of_getLsbD_eq; intro i hi
  simp only [fieldRd, rFigure, BitVec.getLsbD_extractLsb', BitVec.getLsbD_append]
  interval_cases i <;> simp

@[simp] theorem fieldSa_rFigure (op : BitVec 6) (rs rt rd sa : RegNum) (fn : BitVec 6) :
    fieldSa (rFigure op rs rt rd sa fn) = sa := by
  apply BitVec.eq_of_getLsbD_eq; intro i hi
  simp only [fieldSa, rFigure, BitVec.getLsbD_extractLsb', BitVec.getLsbD_append]
  interval_cases i <;> simp

@[simp] theorem fieldFunct_rFigure (op : BitVec 6) (rs rt rd sa : RegNum) (fn : BitVec 6) :
    fieldFunct (rFigure op rs rt rd sa fn) = fn := by
  apply BitVec.eq_of_getLsbD_eq; intro i hi
  simp only [fieldFunct, rFigure, BitVec.getLsbD_extractLsb', BitVec.getLsbD_append]
  interval_cases i <;> simp

@[simp] theorem fieldOp_iFigure (op : BitVec 6) (rs rt : RegNum) (imm : Imm16) :
    fieldOp (iFigure op rs rt imm) = op := by
  apply BitVec.eq_of_getLsbD_eq; intro i hi
  simp only [fieldOp, iFigure, BitVec.getLsbD_extractLsb', BitVec.getLsbD_append]
  interval_cases i <;> simp

@[simp] theorem fieldRs_iFigure (op : BitVec 6) (rs rt : RegNum) (imm : Imm16) :
    fieldRs (iFigure op rs rt imm) = rs := by
  apply BitVec.eq_of_getLsbD_eq; intro i hi
  simp only [fieldRs, iFigure, BitVec.getLsbD_extractLsb', BitVec.getLsbD_append]
  interval_cases i <;> simp

@[simp] theorem fieldRt_iFigure (op : BitVec 6) (rs rt : RegNum) (imm : Imm16) :
    fieldRt (iFigure op rs rt imm) = rt := by
  apply BitVec.eq_of_getLsbD_eq; intro i hi
  simp only [fieldRt, iFigure, BitVec.getLsbD_extractLsb', BitVec.getLsbD_append]
  interval_cases i <;> simp

@[simp] theorem fieldImm_iFigure (op : BitVec 6) (rs rt : RegNum) (imm : Imm16) :
    fieldImm (iFigure op rs rt imm) = imm := by
  apply BitVec.eq_of_getLsbD_eq; intro i hi
  simp only [fieldImm, iFigure, BitVec.getLsbD_extractLsb', BitVec.getLsbD_append]
  interval_cases i <;> simp

@[simp] theorem fieldOp_jFigure (op : BitVec 6) (target : Target26) : fieldOp (jFigure op target) = op := by
  apply BitVec.eq_of_getLsbD_eq; intro i hi
  simp only [fieldOp, jFigure, BitVec.getLsbD_extractLsb', BitVec.getLsbD_append]
  interval_cases i <;> simp

@[simp] theorem fieldTarget_jFigure (op : BitVec 6) (target : Target26) :
    fieldTarget (jFigure op target) = target := by
  apply BitVec.eq_of_getLsbD_eq; intro i hi
  simp only [fieldTarget, jFigure, BitVec.getLsbD_extractLsb', BitVec.getLsbD_append]
  simp [hi]

/-! ### Figures under a mask -/

theorem rFigure_and (op op' : BitVec 6) (rs rs' rt rt' rd rd' sa sa' : RegNum) (fn fn' : BitVec 6) :
    rFigure op rs rt rd sa fn &&& rFigure op' rs' rt' rd' sa' fn' =
      rFigure (op &&& op') (rs &&& rs') (rt &&& rt') (rd &&& rd') (sa &&& sa') (fn &&& fn') := by
  apply BitVec.eq_of_getLsbD_eq; intro i _
  simp only [rFigure, BitVec.getLsbD_and, BitVec.getLsbD_append]
  split_ifs <;> rfl

theorem iFigure_and (op op' : BitVec 6) (rs rs' rt rt' : RegNum) (imm imm' : Imm16) :
    iFigure op rs rt imm &&& iFigure op' rs' rt' imm' =
      iFigure (op &&& op') (rs &&& rs') (rt &&& rt') (imm &&& imm') := by
  apply BitVec.eq_of_getLsbD_eq; intro i _
  simp only [iFigure, BitVec.getLsbD_and, BitVec.getLsbD_append]
  split_ifs <;> rfl

theorem jFigure_and (op op' : BitVec 6) (target target' : Target26) :
    jFigure op target &&& jFigure op' target' = jFigure (op &&& op') (target &&& target') := by
  apply BitVec.eq_of_getLsbD_eq; intro i _
  simp only [jFigure, BitVec.getLsbD_and, BitVec.getLsbD_append]
  split_ifs <;> rfl

theorem and_ones6 (x : BitVec 6) : x &&& 63#6 = x := by
  have h : (63#6) = BitVec.allOnes 6 := by decide
  rw [h, BitVec.and_allOnes]

theorem and_ones5 (x : BitVec 5) : x &&& 31#5 = x := by
  have h : (31#5) = BitVec.allOnes 5 := by decide
  rw [h, BitVec.and_allOnes]

/-! The masks of the table: a field of the mask is all ones where its value is part of the match. -/

theorem rFigure_mask_3 (op : BitVec 6) (rs rt rd sa : RegNum) (fn : BitVec 6) :
    rFigure op rs rt rd sa fn &&& 0xFC0007FF#32 = rFigure op 0 0 0 sa fn := by
  rw [show 0xFC0007FF#32 = rFigure 63 0 0 0 31 63 by decide, rFigure_and]; simp [and_ones5, and_ones6]

theorem rFigure_mask_2 (op : BitVec 6) (rs rt rd sa : RegNum) (fn : BitVec 6) :
    rFigure op rs rt rd sa fn &&& 0xFC00FFFF#32 = rFigure op 0 0 rd sa fn := by
  rw [show 0xFC00FFFF#32 = rFigure 63 0 0 31 31 63 by decide, rFigure_and]; simp [and_ones5, and_ones6]

theorem rFigure_mask_rs (op : BitVec 6) (rs rt rd sa : RegNum) (fn : BitVec 6) :
    rFigure op rs rt rd sa fn &&& 0xFC1FFFFF#32 = rFigure op 0 rt rd sa fn := by
  rw [show 0xFC1FFFFF#32 = rFigure 63 0 31 31 31 63 by decide, rFigure_and]; simp [and_ones5, and_ones6]

theorem rFigure_mask_rs_rd (op : BitVec 6) (rs rt rd sa : RegNum) (fn : BitVec 6) :
    rFigure op rs rt rd sa fn &&& 0xFC1F07FF#32 = rFigure op 0 rt 0 sa fn := by
  rw [show 0xFC1F07FF#32 = rFigure 63 0 31 0 31 63 by decide, rFigure_and]; simp [and_ones5, and_ones6]

theorem rFigure_mask_rd (op : BitVec 6) (rs rt rd sa : RegNum) (fn : BitVec 6) :
    rFigure op rs rt rd sa fn &&& 0xFFFF07FF#32 = rFigure op rs rt 0 sa fn := by
  rw [show 0xFFFF07FF#32 = rFigure 63 31 31 0 31 63 by decide, rFigure_and]; simp [and_ones5, and_ones6]

theorem rFigure_mask_rt (op : BitVec 6) (rs rt rd sa : RegNum) (fn : BitVec 6) :
    rFigure op rs rt rd sa fn &&& 0xFFE0FFFF#32 = rFigure op rs 0 rd sa fn := by
  rw [show 0xFFE0FFFF#32 = rFigure 63 31 0 31 31 63 by decide, rFigure_and]; simp [and_ones5, and_ones6]

theorem rFigure_mask_float (op : BitVec 6) (rs rt rd sa : RegNum) (fn : BitVec 6) :
    rFigure op rs rt rd sa fn &&& 0xFFE0003F#32 = rFigure op rs 0 0 0 fn := by
  rw [show 0xFFE0003F#32 = rFigure 63 31 0 0 0 63 by decide, rFigure_and]; simp [and_ones5, and_ones6]

theorem iFigure_mask_2 (op : BitVec 6) (rs rt : RegNum) (imm : Imm16) :
    iFigure op rs rt imm &&& 0xFC000000#32 = iFigure op 0 0 0 := by
  rw [show 0xFC000000#32 = iFigure 63 0 0 0 by decide, iFigure_and]; simp [and_ones6]

theorem iFigure_mask_rs (op : BitVec 6) (rs rt : RegNum) (imm : Imm16) :
    iFigure op rs rt imm &&& 0xFC1F0000#32 = iFigure op 0 rt 0 := by
  rw [show 0xFC1F0000#32 = iFigure 63 0 31 0 by decide, iFigure_and]; simp [and_ones5, and_ones6]

theorem iFigure_mask_rt (op : BitVec 6) (rs rt : RegNum) (imm : Imm16) :
    iFigure op rs rt imm &&& 0xFFE00000#32 = iFigure op rs 0 0 := by
  rw [show 0xFFE00000#32 = iFigure 63 31 0 0 by decide, iFigure_and]; simp [and_ones5, and_ones6]

theorem jFigure_mask (op : BitVec 6) (target : Target26) :
    jFigure op target &&& 0xFC000000#32 = jFigure op 0 := by
  rw [show 0xFC000000#32 = jFigure 63 0 by decide, jFigure_and]; simp [and_ones6]

end Sys2Proof
end

