-- ==== Sys2Proof/Laws/State.lean ====
section
/-! SUPPORT. One lemma per field of State per update, so that no later proof unfolds a record update. -/

namespace Sys2Proof.Machine

variable (s : State)

/-! ### setGpr -/

@[simp] theorem State.setGpr_pc (r : RegNum) (v : Word) : (s.setGpr r v).pc = s.pc := by
  unfold State.setGpr; split <;> rfl
@[simp] theorem State.setGpr_hi (r : RegNum) (v : Word) : (s.setGpr r v).hi = s.hi := by
  unfold State.setGpr; split <;> rfl
@[simp] theorem State.setGpr_lo (r : RegNum) (v : Word) : (s.setGpr r v).lo = s.lo := by
  unfold State.setGpr; split <;> rfl
@[simp] theorem State.setGpr_epc (r : RegNum) (v : Word) : (s.setGpr r v).epc = s.epc := by
  unfold State.setGpr; split <;> rfl
@[simp] theorem State.setGpr_cause (r : RegNum) (v : Word) : (s.setGpr r v).cause = s.cause := by
  unfold State.setGpr; split <;> rfl
@[simp] theorem State.setGpr_f (r : RegNum) (v : Word) : (s.setGpr r v).f = s.f := by
  unfold State.setGpr; split <;> rfl
@[simp] theorem State.setGpr_mem (r : RegNum) (v : Word) : (s.setGpr r v).mem = s.mem := by
  unfold State.setGpr; split <;> rfl
@[simp] theorem State.setGpr_platform (r : RegNum) (v : Word) : (s.setGpr r v).platform = s.platform := by
  unfold State.setGpr; split <;> rfl
@[simp] theorem State.setGpr_draws (r : RegNum) (v : Word) : (s.setGpr r v).draws = s.draws := by
  unfold State.setGpr; split <;> rfl

/-! ### setFpr -/

@[simp] theorem State.setFpr_x (r : RegNum) (v : Word) : (s.setFpr r v).x = s.x := rfl
@[simp] theorem State.setFpr_pc (r : RegNum) (v : Word) : (s.setFpr r v).pc = s.pc := rfl
@[simp] theorem State.setFpr_hi (r : RegNum) (v : Word) : (s.setFpr r v).hi = s.hi := rfl
@[simp] theorem State.setFpr_lo (r : RegNum) (v : Word) : (s.setFpr r v).lo = s.lo := rfl
@[simp] theorem State.setFpr_epc (r : RegNum) (v : Word) : (s.setFpr r v).epc = s.epc := rfl
@[simp] theorem State.setFpr_cause (r : RegNum) (v : Word) : (s.setFpr r v).cause = s.cause := rfl
@[simp] theorem State.setFpr_f (r : RegNum) (v : Word) : (s.setFpr r v).f = s.f.set r.toNat v r.isLt := rfl
@[simp] theorem State.setFpr_mem (r : RegNum) (v : Word) : (s.setFpr r v).mem = s.mem := rfl
@[simp] theorem State.setFpr_platform (r : RegNum) (v : Word) : (s.setFpr r v).platform = s.platform := rfl
@[simp] theorem State.setFpr_draws (r : RegNum) (v : Word) : (s.setFpr r v).draws = s.draws := rfl

/-! ### setHiLo -/

@[simp] theorem State.setHiLo_x (h l : Word) : (s.setHiLo h l).x = s.x := rfl
@[simp] theorem State.setHiLo_pc (h l : Word) : (s.setHiLo h l).pc = s.pc := rfl
@[simp] theorem State.setHiLo_hi (h l : Word) : (s.setHiLo h l).hi = h := rfl
@[simp] theorem State.setHiLo_lo (h l : Word) : (s.setHiLo h l).lo = l := rfl
@[simp] theorem State.setHiLo_epc (h l : Word) : (s.setHiLo h l).epc = s.epc := rfl
@[simp] theorem State.setHiLo_cause (h l : Word) : (s.setHiLo h l).cause = s.cause := rfl
@[simp] theorem State.setHiLo_f (h l : Word) : (s.setHiLo h l).f = s.f := rfl
@[simp] theorem State.setHiLo_mem (h l : Word) : (s.setHiLo h l).mem = s.mem := rfl
@[simp] theorem State.setHiLo_platform (h l : Word) : (s.setHiLo h l).platform = s.platform := rfl
@[simp] theorem State.setHiLo_draws (h l : Word) : (s.setHiLo h l).draws = s.draws := rfl

/-! ### setPair -/

@[simp] theorem State.setPair_x (n : RegNum) (v : DWord) : (s.setPair n v).x = s.x := rfl
@[simp] theorem State.setPair_pc (n : RegNum) (v : DWord) : (s.setPair n v).pc = s.pc := rfl
@[simp] theorem State.setPair_hi (n : RegNum) (v : DWord) : (s.setPair n v).hi = s.hi := rfl
@[simp] theorem State.setPair_lo (n : RegNum) (v : DWord) : (s.setPair n v).lo = s.lo := rfl
@[simp] theorem State.setPair_epc (n : RegNum) (v : DWord) : (s.setPair n v).epc = s.epc := rfl
@[simp] theorem State.setPair_cause (n : RegNum) (v : DWord) : (s.setPair n v).cause = s.cause := rfl
@[simp] theorem State.setPair_mem (n : RegNum) (v : DWord) : (s.setPair n v).mem = s.mem := rfl
@[simp] theorem State.setPair_platform (n : RegNum) (v : DWord) : (s.setPair n v).platform = s.platform := rfl
@[simp] theorem State.setPair_draws (n : RegNum) (v : DWord) : (s.setPair n v).draws = s.draws := rfl

/-! ### countDraw -/

@[simp] theorem State.countDraw_x : (s.countDraw).x = s.x := rfl
@[simp] theorem State.countDraw_pc : (s.countDraw).pc = s.pc := rfl
@[simp] theorem State.countDraw_hi : (s.countDraw).hi = s.hi := rfl
@[simp] theorem State.countDraw_lo : (s.countDraw).lo = s.lo := rfl
@[simp] theorem State.countDraw_epc : (s.countDraw).epc = s.epc := rfl
@[simp] theorem State.countDraw_cause : (s.countDraw).cause = s.cause := rfl
@[simp] theorem State.countDraw_f : (s.countDraw).f = s.f := rfl
@[simp] theorem State.countDraw_mem : (s.countDraw).mem = s.mem := rfl
@[simp] theorem State.countDraw_platform : (s.countDraw).platform = s.platform := rfl
@[simp] theorem State.countDraw_draws : (s.countDraw).draws = s.draws + 1 := rfl

/-! ### advance -/

@[simp] theorem State.advance_x : (s.advance).x = s.x := rfl
@[simp] theorem State.advance_pc : (s.advance).pc = s.pc + 4#32 := rfl
@[simp] theorem State.advance_hi : (s.advance).hi = s.hi := rfl
@[simp] theorem State.advance_lo : (s.advance).lo = s.lo := rfl
@[simp] theorem State.advance_epc : (s.advance).epc = s.epc := rfl
@[simp] theorem State.advance_cause : (s.advance).cause = s.cause := rfl
@[simp] theorem State.advance_f : (s.advance).f = s.f := rfl
@[simp] theorem State.advance_mem : (s.advance).mem = s.mem := rfl
@[simp] theorem State.advance_platform : (s.advance).platform = s.platform := rfl
@[simp] theorem State.advance_draws : (s.advance).draws = s.draws := rfl

/-! ### jumpTo -/

@[simp] theorem State.jumpTo_x (t : Word) : (s.jumpTo t).x = s.x := rfl
@[simp] theorem State.jumpTo_pc (t : Word) : (s.jumpTo t).pc = t := rfl
@[simp] theorem State.jumpTo_hi (t : Word) : (s.jumpTo t).hi = s.hi := rfl
@[simp] theorem State.jumpTo_lo (t : Word) : (s.jumpTo t).lo = s.lo := rfl
@[simp] theorem State.jumpTo_epc (t : Word) : (s.jumpTo t).epc = s.epc := rfl
@[simp] theorem State.jumpTo_cause (t : Word) : (s.jumpTo t).cause = s.cause := rfl
@[simp] theorem State.jumpTo_f (t : Word) : (s.jumpTo t).f = s.f := rfl
@[simp] theorem State.jumpTo_mem (t : Word) : (s.jumpTo t).mem = s.mem := rfl
@[simp] theorem State.jumpTo_platform (t : Word) : (s.jumpTo t).platform = s.platform := rfl
@[simp] theorem State.jumpTo_draws (t : Word) : (s.jumpTo t).draws = s.draws := rfl

/-! ### raise -/

@[simp] theorem State.raise_x (e : Exn) : (s.raise e).x = s.x := rfl
@[simp] theorem State.raise_pc (e : Exn) : (s.raise e).pc = excVector := rfl
@[simp] theorem State.raise_hi (e : Exn) : (s.raise e).hi = s.hi := rfl
@[simp] theorem State.raise_lo (e : Exn) : (s.raise e).lo = s.lo := rfl
@[simp] theorem State.raise_epc (e : Exn) : (s.raise e).epc = s.pc := rfl
@[simp] theorem State.raise_cause (e : Exn) : (s.raise e).cause = causeCode s.platform e := rfl
@[simp] theorem State.raise_f (e : Exn) : (s.raise e).f = s.f := rfl
@[simp] theorem State.raise_mem (e : Exn) : (s.raise e).mem = s.mem := rfl
@[simp] theorem State.raise_platform (e : Exn) : (s.raise e).platform = s.platform := rfl
@[simp] theorem State.raise_draws (e : Exn) : (s.raise e).draws = s.draws := rfl

/-! ### putByte -/

@[simp] theorem State.putByte_x (a : Word) (b : Byte) : (s.putByte a b).x = s.x := rfl
@[simp] theorem State.putByte_pc (a : Word) (b : Byte) : (s.putByte a b).pc = s.pc := rfl
@[simp] theorem State.putByte_hi (a : Word) (b : Byte) : (s.putByte a b).hi = s.hi := rfl
@[simp] theorem State.putByte_lo (a : Word) (b : Byte) : (s.putByte a b).lo = s.lo := rfl
@[simp] theorem State.putByte_epc (a : Word) (b : Byte) : (s.putByte a b).epc = s.epc := rfl
@[simp] theorem State.putByte_cause (a : Word) (b : Byte) : (s.putByte a b).cause = s.cause := rfl
@[simp] theorem State.putByte_f (a : Word) (b : Byte) : (s.putByte a b).f = s.f := rfl
@[simp] theorem State.putByte_mem (a : Word) (b : Byte) : (s.putByte a b).mem = Memory.write s.mem a.toNat b := rfl
@[simp] theorem State.putByte_platform (a : Word) (b : Byte) : (s.putByte a b).platform = s.platform := rfl
@[simp] theorem State.putByte_draws (a : Word) (b : Byte) : (s.putByte a b).draws = s.draws := rfl

/-! ### putWord -/

@[simp] theorem State.putWord_x (a v : Word) : (s.putWord a v).x = s.x := rfl
@[simp] theorem State.putWord_pc (a v : Word) : (s.putWord a v).pc = s.pc := rfl
@[simp] theorem State.putWord_hi (a v : Word) : (s.putWord a v).hi = s.hi := rfl
@[simp] theorem State.putWord_lo (a v : Word) : (s.putWord a v).lo = s.lo := rfl
@[simp] theorem State.putWord_epc (a v : Word) : (s.putWord a v).epc = s.epc := rfl
@[simp] theorem State.putWord_cause (a v : Word) : (s.putWord a v).cause = s.cause := rfl
@[simp] theorem State.putWord_f (a v : Word) : (s.putWord a v).f = s.f := rfl
@[simp] theorem State.putWord_platform (a v : Word) : (s.putWord a v).platform = s.platform := rfl
@[simp] theorem State.putWord_draws (a v : Word) : (s.putWord a v).draws = s.draws := rfl

end Sys2Proof.Machine
end

