-- ==== Sys2Proof/Laws/Memory.lean ====
section
/-! SUPPORT. The memory: a read after a write, what a write leaves alone, and that every operation keeps the canonical form.
The laws of reading hold for every list of cells, canonical or not. -/

namespace Sys2Proof.Machine

/-! ### One cell -/

theorem Memory.read_clear_self (m : Memory) (a : Nat) : Memory.read (Memory.clear m a) a = unlistedByte := by
  induction m with
  | nil => rfl
  | cons c rest ih =>
    obtain ⟨k, v⟩ := c
    by_cases h : k = a
    · simpa [Memory.clear, h] using ih
    · simpa [Memory.clear, h, Memory.read] using ih

theorem Memory.read_clear_ne (m : Memory) {a c : Nat} (hc : c ≠ a) :
    Memory.read (Memory.clear m a) c = Memory.read m c := by
  induction m with
  | nil => rfl
  | cons d rest ih =>
    obtain ⟨k, v⟩ := d
    by_cases h : k = a
    · have hk : ¬ k = c := fun e => hc (e.symm.trans h)
      subst h
      simpa [Memory.clear, Memory.read, hk] using ih
    · simp only [Memory.clear, List.filter_cons, bne_iff_ne, ne_eq, h, not_false_eq_true, ↓reduceIte, Memory.read]
      split
      · rfl
      · exact ih

theorem Memory.read_insertCell_self (m : Memory) (a : Nat) (b : Byte) (h : ∀ c ∈ m, c.1 ≠ a) :
    Memory.read (Memory.insertCell m a b) a = b := by
  induction m with
  | nil => simp [Memory.insertCell, Memory.read]
  | cons d rest ih =>
    obtain ⟨k, v⟩ := d
    have hk : k ≠ a := h (k, v) (by simp)
    have hr := ih fun c hc => h c (by simp [hc])
    unfold Memory.insertCell
    split <;> simp [Memory.read, hk, hr]

theorem Memory.read_insertCell_ne (m : Memory) {a c : Nat} (b : Byte) (hc : c ≠ a) :
    Memory.read (Memory.insertCell m a b) c = Memory.read m c := by
  induction m with
  | nil => simp [Memory.insertCell, Memory.read, Ne.symm hc]
  | cons d rest ih =>
    obtain ⟨k, v⟩ := d
    unfold Memory.insertCell
    split
    · simp [Memory.read, Ne.symm hc]
    · simp [Memory.read, ih]

theorem Memory.clear_keys (m : Memory) (a : Nat) : ∀ c ∈ Memory.clear m a, c.1 ≠ a := by
  intro c hc
  simpa [Memory.clear] using (List.mem_filter.mp hc).2

theorem Memory.read_write_self (m : Memory) (a : Nat) (b : Byte) : Memory.read (Memory.write m a b) a = b := by
  unfold Memory.write
  split
  · rename_i h; rw [h]; exact Memory.read_clear_self m a
  · exact Memory.read_insertCell_self _ a b (Memory.clear_keys m a)

theorem Memory.read_write_ne (m : Memory) {a c : Nat} (b : Byte) (hc : c ≠ a) :
    Memory.read (Memory.write m a b) c = Memory.read m c := by
  unfold Memory.write
  split
  · exact Memory.read_clear_ne m hc
  · rw [Memory.read_insertCell_ne _ b hc, Memory.read_clear_ne m hc]

/-! ### The canonical form -/

theorem Memory.wf_clear {m : Memory} (h : m.wf) (a : Nat) : (Memory.clear m a).wf :=
  ⟨h.1.filter _, fun c hc => h.2 c (List.mem_filter.mp hc).1⟩

theorem Memory.mem_insertCell {m : Memory} {a : Nat} {b : Byte} {c : Host.Cell} :
    c ∈ Memory.insertCell m a b ↔ c = (a, b) ∨ c ∈ m := by
  induction m with
  | nil => simp [Memory.insertCell]
  | cons d rest ih =>
    unfold Memory.insertCell
    split
    · simp
    · simp only [List.mem_cons, ih]; tauto

theorem Memory.wf_insertCell {m : Memory} (h : m.wf) {a : Nat} (ha : a < 2 ^ 32) {b : Byte} (hb : b ≠ unlistedByte)
    (hm : ∀ c ∈ m, c.1 ≠ a) : (Memory.insertCell m a b).wf := by
  refine ⟨?_, fun c hc => ?_⟩
  · induction m with
    | nil => simp [Memory.insertCell]
    | cons d rest ih =>
      obtain ⟨k, v⟩ := d
      have hp := List.pairwise_cons.mp h.1
      have hk : k ≠ a := hm (k, v) (by simp)
      unfold Memory.insertCell
      split
      · rename_i hlt
        refine List.pairwise_cons.mpr ⟨fun c hc => ?_, h.1⟩
        rcases List.mem_cons.mp hc with rfl | hc
        · exact hlt
        · exact Nat.lt_trans hlt (hp.1 c hc)
      · rename_i hge
        refine List.pairwise_cons.mpr ⟨fun c hc => ?_, ih ⟨hp.2, fun c hc => h.2 c (by simp [hc])⟩
          fun c hc => hm c (by simp [hc])⟩
        rcases Memory.mem_insertCell.mp hc with rfl | hc
        · exact Nat.lt_of_le_of_ne (Nat.le_of_not_lt hge) hk
        · exact hp.1 c hc
  · rcases Memory.mem_insertCell.mp hc with rfl | hc
    · exact ⟨hb, ha⟩
    · exact h.2 c hc

theorem Memory.wf_write {m : Memory} (h : m.wf) {a : Nat} (ha : a < 2 ^ 32) (b : Byte) : (Memory.write m a b).wf := by
  unfold Memory.write
  split
  · exact Memory.wf_clear h a
  · rename_i hb
    exact Memory.wf_insertCell (Memory.wf_clear h a) ha hb (Memory.clear_keys m a)

theorem Memory.wf_nil : Memory.wf [] :=
  ⟨List.Pairwise.nil, by simp⟩

/-! ### Bytes -/

@[simp] theorem State.byteAt_putByte (s : State) (a : Word) (b : Byte) (c : Word) :
    (s.putByte a b).byteAt c = if c = a then b else s.byteAt c := by
  unfold State.byteAt State.putByte
  split
  · rename_i h; rw [h]; exact Memory.read_write_self _ _ _
  · rename_i h; exact Memory.read_write_ne _ b fun e => h (BitVec.eq_of_toNat_eq e)

theorem State.wf_putByte {s : State} (h : s.mem.wf) (a : Word) (b : Byte) : (s.putByte a b).mem.wf :=
  Memory.wf_write h a.isLt b

/-- Reading a byte looks at the memory only. -/
theorem State.byteAt_congr {s t : State} (h : t.mem = s.mem) (a : Word) : t.byteAt a = s.byteAt a := by
  unfold State.byteAt; rw [h]

/-- Reading a word looks at the memory and the byte order only. -/
theorem State.wordAt_congr {s t : State} (h : t.mem = s.mem) (hp : t.platform = s.platform) (a : Word) :
    t.wordAt a = s.wordAt a := by
  unfold State.wordAt; rw [hp]; simp only [State.byteAt_congr h]

/-! ### Words -/

theorem add_offset_ne (a : Word) {j k : Nat} (hj : j < 4) (hk : k < 4) (h : j ≠ k) :
    a + BitVec.ofNat 32 j ≠ a + BitVec.ofNat 32 k := by
  intro e
  have := BitVec.add_right_inj a |>.mp e
  have := congrArg BitVec.toNat this
  simp only [BitVec.toNat_ofNat] at this
  omega

/-- The four bytes of a word in memory make the word again, in either byte order (20_memory.md R52, R53). -/
theorem wordOfBytes_byteOfWord (e : Endian) (v : Word) :
    wordOfBytes e (byteOfWord e v 0) (byteOfWord e v 1) (byteOfWord e v 2) (byteOfWord e v 3) = v := by
  cases e <;>
  · simp only [wordOfBytes, byteOfWord]
    apply BitVec.eq_of_getLsbD_eq
    intro i hi
    simp only [BitVec.getLsbD_append, BitVec.getLsbD_extractLsb']
    interval_cases i <;> simp

/-- Every byte after a word is stored (20_memory.md R52): the four bytes of the word, and every other byte as before. -/
theorem State.byteAt_putWord (s : State) (a v c : Word) :
    (s.putWord a v).byteAt c =
      if c = a then byteOfWord s.platform.endian v 0
      else if c = a + 1#32 then byteOfWord s.platform.endian v 1
      else if c = a + 2#32 then byteOfWord s.platform.endian v 2
      else if c = a + 3#32 then byteOfWord s.platform.endian v 3
      else s.byteAt c := by
  have h01 := add_offset_ne a (j := 0) (k := 1) (by decide) (by decide) (by decide)
  have h02 := add_offset_ne a (j := 0) (k := 2) (by decide) (by decide) (by decide)
  have h03 := add_offset_ne a (j := 0) (k := 3) (by decide) (by decide) (by decide)
  have h12 := add_offset_ne a (j := 1) (k := 2) (by decide) (by decide) (by decide)
  have h13 := add_offset_ne a (j := 1) (k := 3) (by decide) (by decide) (by decide)
  have h23 := add_offset_ne a (j := 2) (k := 3) (by decide) (by decide) (by decide)
  simp only [BitVec.add_zero] at h01 h02 h03
  simp only [State.putWord, State.byteAt_putByte]
  by_cases c0 : c = a
  · subst c0; simp [h01, h02, h03]
  by_cases c1 : c = a + 1#32
  · subst c1; simp [h12, h13, Ne.symm h01]
  by_cases c2 : c = a + 2#32
  · subst c2; simp [h23, Ne.symm h02, Ne.symm h12]
  by_cases c3 : c = a + 3#32
  · subst c3; simp [Ne.symm h03, Ne.symm h13, Ne.symm h23]
  simp [c0, c1, c2, c3]

/-- A word reads back as it was stored (20_memory.md R52, R60). -/
@[simp] theorem State.wordAt_putWord (s : State) (a v : Word) : (s.putWord a v).wordAt a = v := by
  have h01 := add_offset_ne a (j := 0) (k := 1) (by decide) (by decide) (by decide)
  have h02 := add_offset_ne a (j := 0) (k := 2) (by decide) (by decide) (by decide)
  have h03 := add_offset_ne a (j := 0) (k := 3) (by decide) (by decide) (by decide)
  have h12 := add_offset_ne a (j := 1) (k := 2) (by decide) (by decide) (by decide)
  have h13 := add_offset_ne a (j := 1) (k := 3) (by decide) (by decide) (by decide)
  have h23 := add_offset_ne a (j := 2) (k := 3) (by decide) (by decide) (by decide)
  simp only [BitVec.add_zero] at h01 h02 h03
  unfold State.wordAt
  simp only [State.byteAt_putWord, State.putWord_platform]
  simp only [if_true, Ne.symm h01, Ne.symm h02, Ne.symm h03, Ne.symm h12, Ne.symm h13, Ne.symm h23, if_false]
  exact wordOfBytes_byteOfWord _ v

theorem State.wf_putWord {s : State} (h : s.mem.wf) (a v : Word) : (s.putWord a v).mem.wf :=
  State.wf_putByte (State.wf_putByte (State.wf_putByte (State.wf_putByte h _ _) _ _) _ _) _ _

end Sys2Proof.Machine
end

