-- ==== Sys2Proof/Laws/Registers.lean ====
section
/-! SUPPORT. Reading registers and memory after each update of the state. -/

namespace Sys2Proof.Machine

variable (s : State)

/-! ### What reads depend on -/

theorem State.gpr_congr {s t : State} (h : t.x = s.x) (r : RegNum) : t.gpr r = s.gpr r := by
  unfold State.gpr; simp only [h]

theorem State.fpr_congr {s t : State} (h : t.f = s.f) (r : RegNum) : t.fpr r = s.fpr r := by
  unfold State.fpr; simp only [h]

/-! ### General registers -/

/-- The hardwired register reads as zero in every state (10_state.md R21). -/
@[simp] theorem State.gpr_zero : s.gpr 0#5 = 0#32 := rfl

/-- A write to register 0 is discarded (10_state.md R21). -/
@[simp] theorem State.setGpr_zero (v : Word) : s.setGpr 0#5 v = s := rfl

theorem State.gpr_setGpr (r : RegNum) (v : Word) (q : RegNum) :
    (s.setGpr r v).gpr q = if q = r ∧ q ≠ 0#5 then v else s.gpr q := by
  by_cases hr : r = 0#5
  · subst hr
    rw [State.setGpr_zero, if_neg fun h => h.2 h.1]
  by_cases hq : q = 0#5
  · subst hq; simp
  unfold State.setGpr State.gpr
  simp only [hr, hq, if_false, ne_eq, not_false_eq_true, and_true]
  by_cases h : q = r
  · subst h; simp
  · have : r.toNat ≠ q.toNat := fun e => h (BitVec.eq_of_toNat_eq e).symm
    simp [h, this]

/-- The entry of the hardwired register is never written. -/
@[simp] theorem State.setGpr_x_zero (r : RegNum) (v : Word) : (s.setGpr r v).x[0] = s.x[0] := by
  unfold State.setGpr
  split
  · rfl
  · rename_i h
    have : r.toNat ≠ 0 := fun e => h (BitVec.eq_of_toNat_eq (by simpa using e))
    simp [this]

@[simp] theorem State.gpr_setFpr (r : RegNum) (v : Word) (q : RegNum) : (s.setFpr r v).gpr q = s.gpr q := rfl
@[simp] theorem State.gpr_setHiLo (h l : Word) (q : RegNum) : (s.setHiLo h l).gpr q = s.gpr q := rfl
@[simp] theorem State.gpr_setPair (n : RegNum) (v : DWord) (q : RegNum) : (s.setPair n v).gpr q = s.gpr q := rfl
@[simp] theorem State.gpr_countDraw (q : RegNum) : s.countDraw.gpr q = s.gpr q := rfl
@[simp] theorem State.gpr_advance (q : RegNum) : s.advance.gpr q = s.gpr q := rfl
@[simp] theorem State.gpr_jumpTo (t : Word) (q : RegNum) : (s.jumpTo t).gpr q = s.gpr q := rfl
@[simp] theorem State.gpr_raise (e : Exn) (q : RegNum) : (s.raise e).gpr q = s.gpr q := rfl
@[simp] theorem State.gpr_putByte (a : Word) (b : Byte) (q : RegNum) : (s.putByte a b).gpr q = s.gpr q := rfl
@[simp] theorem State.gpr_putWord (a v : Word) (q : RegNum) : (s.putWord a v).gpr q = s.gpr q := rfl

/-! ### Floating point registers -/

theorem State.fpr_setFpr (r : RegNum) (v : Word) (q : RegNum) :
    (s.setFpr r v).fpr q = if q = r then v else s.fpr q := by
  unfold State.setFpr State.fpr
  by_cases h : q = r
  · subst h; simp
  · have : r.toNat ≠ q.toNat := fun e => h (BitVec.eq_of_toNat_eq e).symm
    simp [h, this]

/-- The two registers of a pair (46_floating_point.md R236). -/
theorem State.fpr_setPair (n : RegNum) (v : DWord) (q : RegNum) :
    (s.setPair n v).fpr q =
      if q = n then v.extractLsb' 32 32 else if q = n + 1#5 then v.extractLsb' 0 32 else s.fpr q := by
  have h : n ≠ n + 1#5 := by intro e; have := congrArg BitVec.toNat e; simp [BitVec.toNat_add] at this; omega
  simp only [State.setPair, fpPairHighFirst, if_true, State.fpr_setFpr]
  by_cases h1 : q = n
  · subst h1; simp [h]
  · simp [h1]

@[simp] theorem State.fpr_setGpr (r : RegNum) (v : Word) (q : RegNum) : (s.setGpr r v).fpr q = s.fpr q :=
  State.fpr_congr (s.setGpr_f r v) q
@[simp] theorem State.fpr_setHiLo (h l : Word) (q : RegNum) : (s.setHiLo h l).fpr q = s.fpr q := rfl
@[simp] theorem State.fpr_countDraw (q : RegNum) : s.countDraw.fpr q = s.fpr q := rfl
@[simp] theorem State.fpr_advance (q : RegNum) : s.advance.fpr q = s.fpr q := rfl
@[simp] theorem State.fpr_jumpTo (t : Word) (q : RegNum) : (s.jumpTo t).fpr q = s.fpr q := rfl
@[simp] theorem State.fpr_raise (e : Exn) (q : RegNum) : (s.raise e).fpr q = s.fpr q := rfl
@[simp] theorem State.fpr_putByte (a : Word) (b : Byte) (q : RegNum) : (s.putByte a b).fpr q = s.fpr q := rfl
@[simp] theorem State.fpr_putWord (a v : Word) (q : RegNum) : (s.putWord a v).fpr q = s.fpr q := rfl

/-! ### Bytes of memory -/

@[simp] theorem State.byteAt_setGpr (r : RegNum) (v c : Word) : (s.setGpr r v).byteAt c = s.byteAt c :=
  State.byteAt_congr (s.setGpr_mem r v) c
@[simp] theorem State.byteAt_setFpr (r : RegNum) (v c : Word) : (s.setFpr r v).byteAt c = s.byteAt c := rfl
@[simp] theorem State.byteAt_setHiLo (h l c : Word) : (s.setHiLo h l).byteAt c = s.byteAt c := rfl
@[simp] theorem State.byteAt_setPair (n : RegNum) (v : DWord) (c : Word) : (s.setPair n v).byteAt c = s.byteAt c := rfl
@[simp] theorem State.byteAt_countDraw (c : Word) : s.countDraw.byteAt c = s.byteAt c := rfl
@[simp] theorem State.byteAt_advance (c : Word) : s.advance.byteAt c = s.byteAt c := rfl
@[simp] theorem State.byteAt_jumpTo (t c : Word) : (s.jumpTo t).byteAt c = s.byteAt c := rfl
@[simp] theorem State.byteAt_raise (e : Exn) (c : Word) : (s.raise e).byteAt c = s.byteAt c := rfl

end Sys2Proof.Machine
end

