-- ==== Sys2Proof/Laws/Outcomes.lean ====
section
/-! SUPPORT. For each shared operation, once, everything it can answer: the provers cite these instead of unfolding. -/

namespace Sys2Proof.Machine

/-! ### The ends of an instruction -/

theorem writeGpr_next {r : RegNum} {v : Word} {s t : State} (h : writeGpr r v s = .next t) :
    t = (s.setGpr r v).advance := by
  simpa [writeGpr] using h.symm

theorem complete_next {s t : State} {r : Except Exn State} (h : complete s r = .next t) :
    r = .ok t ∨ ∃ e, r = .error e ∧ t = s.raise e := by
  cases r with
  | ok u => left; simpa [complete] using h
  | error e => right; exact ⟨e, rfl, by simpa [complete] using h.symm⟩

theorem writeProduct_next {p : DWord} {s t : State} (h : writeProduct p s = .next t) :
    t = (s.setHiLo (p.extractLsb' 32 32) (p.extractLsb' 0 32)).advance := by
  simpa [writeProduct] using h.symm

theorem writeQuotient_next {qr : Word × Word} {s t : State} (h : writeQuotient qr s = .next t) :
    t = (s.setHiLo qr.2 qr.1).advance := by
  simpa [writeQuotient] using h.symm

theorem loadGpr_next {rt : RegNum} {v : Except Exn Word} {s t : State} (h : loadGpr rt v s = .next t) :
    (∃ w, v = .ok w ∧ t = (s.setGpr rt w).advance) ∨ ∃ e, v = .error e ∧ t = s.raise e := by
  cases v with
  | ok w => left; exact ⟨w, rfl, by simpa [loadGpr, complete, Except.map] using h.symm⟩
  | error e => right; exact ⟨e, rfl, by simpa [loadGpr, complete, Except.map] using h.symm⟩

theorem finishStore_next {u : Except Exn State} {s t : State} (h : finishStore u s = .next t) :
    (∃ v, u = .ok v ∧ t = v.advance) ∨ ∃ e, u = .error e ∧ t = s.raise e := by
  cases u with
  | ok v => left; exact ⟨v, rfl, by simpa [finishStore, complete, Except.map] using h.symm⟩
  | error e => right; exact ⟨e, rfl, by simpa [finishStore, complete, Except.map] using h.symm⟩

theorem branchIf_cases (s : State) (taken : Bool) (offset : Imm16) :
    (taken = true ∧ s.branchIf taken offset = s.jumpTo (branchTarget s.pc offset)) ∨
      (taken = false ∧ s.branchIf taken offset = s.advance) := by
  cases taken <;> simp [State.branchIf]

/-! ### Memory accesses -/

theorem readByte_cases (s : State) (k : AccessKind) (a : Word) :
    (s.accessible a .byte k = true ∧ s.readByte k a = .ok (s.byteAt a)) ∨
      (s.accessible a .byte k = false ∧ s.readByte k a = .error .illegalMemoryAddress) := by
  unfold State.readByte; cases h : s.accessible a .byte k <;> simp

theorem readWord_cases (s : State) (k : AccessKind) (a : Word) :
    (s.accessible a .word k = true ∧ s.readWord k a = .ok (s.wordAt a)) ∨
      (s.accessible a .word k = false ∧ s.readWord k a = .error .illegalMemoryAddress) := by
  unfold State.readWord; cases h : s.accessible a .word k <;> simp

theorem writeByte_cases (s : State) (a : Word) (b : Byte) :
    (s.accessible a .byte .store = true ∧ s.writeByte a b = .ok (s.putByte a b)) ∨
      (s.accessible a .byte .store = false ∧ s.writeByte a b = .error .illegalMemoryAddress) := by
  unfold State.writeByte; cases h : s.accessible a .byte .store <;> simp

theorem writeWord_cases (s : State) (a v : Word) :
    (s.accessible a .word .store = true ∧ s.writeWord a v = .ok (s.putWord a v)) ∨
      (s.accessible a .word .store = false ∧ s.writeWord a v = .error .illegalMemoryAddress) := by
  unfold State.writeWord; cases h : s.accessible a .word .store <;> simp

/-- An aligned word address is a multiple of 4 (20_memory.md R54). -/
theorem aligned_word_iff (a : Word) : aligned a .word = true ↔ a.toNat % 4 = 0 := by
  simp only [aligned, beq_iff_eq, ← BitVec.toNat_inj, BitVec.extractLsb'_toNat]
  simp

/-! ### Floating point -/

/-- What the end of a single precision operation can answer: it never refuses and never faults. -/
theorem deliverSingle_cases (fd : RegNum) (s : State) (r : FpResult) :
    ∃ t, deliverSingle fd s r = .next t ∧
      ((∃ v, t = (s.setFpr fd v).advance) ∨ (∃ v, t = (s.setFpr fd v).countDraw.advance) ∨
        t = s.raise .overflow ∨ t = s.raise .divisionByZero) := by
  cases r with
  | value n m => exact ⟨_, rfl, .inl ⟨_, rfl⟩⟩
  | nan => exact ⟨_, rfl, .inr (.inl ⟨_, rfl⟩)⟩
  | overflow => exact ⟨_, rfl, .inr (.inr (.inl rfl))⟩
  | divZero => exact ⟨_, rfl, .inr (.inr (.inr rfl))⟩

/-- What the end of a double precision operation can answer. -/
theorem deliverDouble_cases (fd : RegNum) (s : State) (r : FpResult) :
    ∃ t, deliverDouble fd s r = .next t ∧
      ((∃ v, t = (s.setPair fd v).advance) ∨ (∃ v, t = (s.setPair fd v).countDraw.advance) ∨
        t = s.raise .overflow ∨ t = s.raise .divisionByZero) := by
  cases r with
  | value n m => exact ⟨_, rfl, .inl ⟨_, rfl⟩⟩
  | nan => exact ⟨_, rfl, .inr (.inl ⟨_, rfl⟩)⟩
  | overflow => exact ⟨_, rfl, .inr (.inr (.inl rfl))⟩
  | divZero => exact ⟨_, rfl, .inr (.inr (.inr rfl))⟩

/-- A double precision operation either is refused, for an odd register number, or ends as `deliverDouble` says. -/
theorem arithDouble_cases (op : FpOperation) (fd fs ft : RegNum) (s : State) :
    (evenTriple fd fs ft = false ∧ arithDouble op fd fs ft s = .refused .oddDoubleRegister) ∨
      (evenTriple fd fs ft = true ∧
        arithDouble op fd fs ft s = deliverDouble fd s (fpOp binary64 op (s.pair fs).toNat (s.pair ft).toNat)) := by
  unfold arithDouble; cases h : evenTriple fd fs ft <;> simp

/-! ### The step -/

/-- The fetch of an accessible word that decodes gives its instruction; every other fetch gives an exception. -/
theorem fetchDecode_cases (s : State) :
    (s.accessible s.pc .word .fetch = false ∧ s.fetchDecode = .error .illegalMemoryAddress) ∨
      (s.accessible s.pc .word .fetch = true ∧ (∃ e, decode (s.wordAt s.pc) = .error e) ∧
        s.fetchDecode = .error .illegalOpcode) ∨
      (s.accessible s.pc .word .fetch = true ∧ ∃ i, decode (s.wordAt s.pc) = .ok i ∧ s.fetchDecode = .ok i) := by
  rcases readWord_cases s .fetch s.pc with ⟨ha, h⟩ | ⟨ha, h⟩
  · right
    cases hd : decode (s.wordAt s.pc) with
    | ok i => right; exact ⟨ha, i, rfl, by simp [State.fetchDecode, State.fetch, h, hd]⟩
    | error e => left; exact ⟨ha, ⟨e, rfl⟩, by simp [State.fetchDecode, State.fetch, h, hd]⟩
  · left; exact ⟨ha, by simp [State.fetchDecode, State.fetch, h]⟩

/-- Everything a step can answer: it takes the exception of its fetch or of its decoding, or it runs the decoded
instruction (60_exceptions.md R258). -/
theorem step_cases (s : State) :
    (∃ e, s.fetchDecode = .error e ∧ step s = .next (s.raise e)) ∨
      ∃ i, s.fetchDecode = .ok i ∧ step s = exec i s := by
  unfold step
  cases h : s.fetchDecode with
  | error e => exact .inl ⟨e, rfl, rfl⟩
  | ok i => exact .inr ⟨i, rfl, rfl⟩

end Sys2Proof.Machine
end

