-- ==== Sys2Proof/Laws/PerInstr.lean ====
section
/-! SUPPORT. The family OwnRow: the word the encoder writes for an instruction, from the figures, matches the row of the
opcode table that has its mnemonic, and that row reads the instruction back. One lemma per constructor. -/

namespace Sys2Proof.Laws.OwnRow

/-- The encoding of `i` matches its own row of the table, which reads `i` back (30_encoding.md R91). -/
def Statement (i : Instr) : Prop :=
  ∃ r ∈ opcodeTable, r.mnemonic = mnemonicOf i ∧ r.hits (encode i) = true ∧ r.build (encode i) = i

/-- Row `k` of the table is the instruction's own. -/
theorem of_row {i : Instr} (k : Nat) (hk : k < opcodeTable.length) (hm : opcodeTable[k].mnemonic = mnemonicOf i)
    (hh : encode i &&& opcodeTable[k].mask = opcodeTable[k].pattern) (hb : opcodeTable[k].build (encode i) = i) :
    Statement i :=
  ⟨opcodeTable[k], List.getElem_mem hk, hm, by simpa [Row.hits] using hh, hb⟩

theorem add (rd rs rt : RegNum) : Statement (.add rd rs rt) :=
  of_row 0 (by decide) rfl ((rFigure_mask_3 _ _ _ _ _ _).trans (by decide)) (by change Instr.add _ _ _ = _; simp [encode])

theorem addu (rd rs rt : RegNum) : Statement (.addu rd rs rt) :=
  of_row 1 (by decide) rfl ((rFigure_mask_3 _ _ _ _ _ _).trans (by decide)) (by change Instr.addu _ _ _ = _; simp [encode])

theorem sub (rd rs rt : RegNum) : Statement (.sub rd rs rt) :=
  of_row 2 (by decide) rfl ((rFigure_mask_3 _ _ _ _ _ _).trans (by decide)) (by change Instr.sub _ _ _ = _; simp [encode])

theorem subu (rd rs rt : RegNum) : Statement (.subu rd rs rt) :=
  of_row 3 (by decide) rfl ((rFigure_mask_3 _ _ _ _ _ _).trans (by decide)) (by change Instr.subu _ _ _ = _; simp [encode])

theorem mult (rs rt : RegNum) : Statement (.mult rs rt) :=
  of_row 4 (by decide) rfl ((rFigure_mask_2 _ _ _ _ _ _).trans (by decide)) (by change Instr.mult _ _ = _; simp [encode])

theorem multu (rs rt : RegNum) : Statement (.multu rs rt) :=
  of_row 5 (by decide) rfl ((rFigure_mask_2 _ _ _ _ _ _).trans (by decide)) (by change Instr.multu _ _ = _; simp [encode])

theorem div (rs rt : RegNum) : Statement (.div rs rt) :=
  of_row 6 (by decide) rfl ((rFigure_mask_2 _ _ _ _ _ _).trans (by decide)) (by change Instr.div _ _ = _; simp [encode])

theorem divu (rs rt : RegNum) : Statement (.divu rs rt) :=
  of_row 7 (by decide) rfl ((rFigure_mask_2 _ _ _ _ _ _).trans (by decide)) (by change Instr.divu _ _ = _; simp [encode])

theorem slt (rd rs rt : RegNum) : Statement (.slt rd rs rt) :=
  of_row 8 (by decide) rfl ((rFigure_mask_3 _ _ _ _ _ _).trans (by decide)) (by change Instr.slt _ _ _ = _; simp [encode])

theorem sltu (rd rs rt : RegNum) : Statement (.sltu rd rs rt) :=
  of_row 9 (by decide) rfl ((rFigure_mask_3 _ _ _ _ _ _).trans (by decide)) (by change Instr.sltu _ _ _ = _; simp [encode])

theorem and (rd rs rt : RegNum) : Statement (.and rd rs rt) :=
  of_row 10 (by decide) rfl ((rFigure_mask_3 _ _ _ _ _ _).trans (by decide)) (by change Instr.and _ _ _ = _; simp [encode])

theorem or (rd rs rt : RegNum) : Statement (.or rd rs rt) :=
  of_row 11 (by decide) rfl ((rFigure_mask_3 _ _ _ _ _ _).trans (by decide)) (by change Instr.or _ _ _ = _; simp [encode])

theorem nor (rd rs rt : RegNum) : Statement (.nor rd rs rt) :=
  of_row 12 (by decide) rfl ((rFigure_mask_3 _ _ _ _ _ _).trans (by decide)) (by change Instr.nor _ _ _ = _; simp [encode])

theorem xor (rd rs rt : RegNum) : Statement (.xor rd rs rt) :=
  of_row 13 (by decide) rfl ((rFigure_mask_3 _ _ _ _ _ _).trans (by decide)) (by change Instr.xor _ _ _ = _; simp [encode])

theorem addi (rt rs : RegNum) (imm : Imm16) : Statement (.addi rt rs imm) :=
  of_row 14 (by decide) rfl ((iFigure_mask_2 _ _ _ _).trans (by decide)) (by change Instr.addi _ _ _ = _; simp [encode])

theorem addiu (rt rs : RegNum) (imm : Imm16) : Statement (.addiu rt rs imm) :=
  of_row 15 (by decide) rfl ((iFigure_mask_2 _ _ _ _).trans (by decide)) (by change Instr.addiu _ _ _ = _; simp [encode])

theorem slti (rt rs : RegNum) (imm : Imm16) : Statement (.slti rt rs imm) :=
  of_row 16 (by decide) rfl ((iFigure_mask_2 _ _ _ _).trans (by decide)) (by change Instr.slti _ _ _ = _; simp [encode])

theorem sltiu (rt rs : RegNum) (imm : Imm16) : Statement (.sltiu rt rs imm) :=
  of_row 17 (by decide) rfl ((iFigure_mask_2 _ _ _ _).trans (by decide)) (by change Instr.sltiu _ _ _ = _; simp [encode])

theorem andi (rt rs : RegNum) (imm : Imm16) : Statement (.andi rt rs imm) :=
  of_row 18 (by decide) rfl ((iFigure_mask_2 _ _ _ _).trans (by decide)) (by change Instr.andi _ _ _ = _; simp [encode])

theorem ori (rt rs : RegNum) (imm : Imm16) : Statement (.ori rt rs imm) :=
  of_row 19 (by decide) rfl ((iFigure_mask_2 _ _ _ _).trans (by decide)) (by change Instr.ori _ _ _ = _; simp [encode])

theorem xori (rt rs : RegNum) (imm : Imm16) : Statement (.xori rt rs imm) :=
  of_row 20 (by decide) rfl ((iFigure_mask_2 _ _ _ _).trans (by decide)) (by change Instr.xori _ _ _ = _; simp [encode])

theorem lw (rt : RegNum) (imm : Imm16) (rs : RegNum) : Statement (.lw rt imm rs) :=
  of_row 21 (by decide) rfl ((iFigure_mask_2 _ _ _ _).trans (by decide)) (by change Instr.lw _ _ _ = _; simp [encode])

theorem sw (rt : RegNum) (imm : Imm16) (rs : RegNum) : Statement (.sw rt imm rs) :=
  of_row 22 (by decide) rfl ((iFigure_mask_2 _ _ _ _).trans (by decide)) (by change Instr.sw _ _ _ = _; simp [encode])

theorem lbu (rt : RegNum) (imm : Imm16) (rs : RegNum) : Statement (.lbu rt imm rs) :=
  of_row 23 (by decide) rfl ((iFigure_mask_2 _ _ _ _).trans (by decide)) (by change Instr.lbu _ _ _ = _; simp [encode])

theorem lb (rt : RegNum) (imm : Imm16) (rs : RegNum) : Statement (.lb rt imm rs) :=
  of_row 24 (by decide) rfl ((iFigure_mask_2 _ _ _ _).trans (by decide)) (by change Instr.lb _ _ _ = _; simp [encode])

theorem sb (rt : RegNum) (imm : Imm16) (rs : RegNum) : Statement (.sb rt imm rs) :=
  of_row 25 (by decide) rfl ((iFigure_mask_2 _ _ _ _).trans (by decide)) (by change Instr.sb _ _ _ = _; simp [encode])

theorem lui (rt : RegNum) (imm : Imm16) : Statement (.lui rt imm) :=
  of_row 26 (by decide) rfl ((iFigure_mask_rt _ _ _ _).trans (by decide)) (by change Instr.lui _ _ = _; simp [encode])

theorem beq (rs rt : RegNum) (offset : Imm16) : Statement (.beq rs rt offset) :=
  of_row 27 (by decide) rfl ((iFigure_mask_2 _ _ _ _).trans (by decide)) (by change Instr.beq _ _ _ = _; simp [encode])

theorem bne (rs rt : RegNum) (offset : Imm16) : Statement (.bne rs rt offset) :=
  of_row 28 (by decide) rfl ((iFigure_mask_2 _ _ _ _).trans (by decide)) (by change Instr.bne _ _ _ = _; simp [encode])

theorem blez (rs : RegNum) (offset : Imm16) : Statement (.blez rs offset) :=
  of_row 29 (by decide) rfl ((iFigure_mask_rs _ _ _ _).trans (by decide)) (by change Instr.blez _ _ = _; simp [encode])

theorem bgtz (rs : RegNum) (offset : Imm16) : Statement (.bgtz rs offset) :=
  of_row 30 (by decide) rfl ((iFigure_mask_rs _ _ _ _).trans (by decide)) (by change Instr.bgtz _ _ = _; simp [encode])

theorem bltz (rs : RegNum) (offset : Imm16) : Statement (.bltz rs offset) :=
  of_row 31 (by decide) rfl ((iFigure_mask_rs _ _ _ _).trans (by decide)) (by change Instr.bltz _ _ = _; simp [encode])

theorem j (target : Target26) : Statement (.j target) :=
  of_row 32 (by decide) rfl ((jFigure_mask _ _).trans (by decide)) (by change Instr.j _ = _; simp [encode])

theorem jal (target : Target26) : Statement (.jal target) :=
  of_row 33 (by decide) rfl ((jFigure_mask _ _).trans (by decide)) (by change Instr.jal _ = _; simp [encode])

theorem jr (rs : RegNum) : Statement (.jr rs) :=
  of_row 34 (by decide) rfl ((rFigure_mask_rs _ _ _ _ _ _).trans (by decide)) (by change Instr.jr _ = _; simp [encode])

theorem jalr (rd rs : RegNum) : Statement (.jalr rd rs) :=
  of_row 35 (by decide) rfl ((rFigure_mask_rs_rd _ _ _ _ _ _).trans (by decide)) (by change Instr.jalr _ _ = _; simp [encode])

theorem nop : Statement (.nop) :=
  of_row 36 (by decide) rfl (by decide) (rfl)

theorem mfhi (rd : RegNum) : Statement (.mfhi rd) :=
  of_row 37 (by decide) rfl ((rFigure_mask_rd _ _ _ _ _ _).trans (by decide)) (by change Instr.mfhi _ = _; simp [encode])

theorem mflo (rd : RegNum) : Statement (.mflo rd) :=
  of_row 38 (by decide) rfl ((rFigure_mask_rd _ _ _ _ _ _).trans (by decide)) (by change Instr.mflo _ = _; simp [encode])

theorem mfepc (rt : RegNum) : Statement (.mfepc rt) :=
  of_row 39 (by decide) rfl ((rFigure_mask_rt _ _ _ _ _ _).trans (by decide)) (by change Instr.mfepc _ = _; simp [encode])

theorem mfco (rt : RegNum) : Statement (.mfco rt) :=
  of_row 40 (by decide) rfl ((rFigure_mask_rt _ _ _ _ _ _).trans (by decide)) (by change Instr.mfco _ = _; simp [encode])

theorem lwc1 (ft : RegNum) (imm : Imm16) (rs : RegNum) : Statement (.lwc1 ft imm rs) :=
  of_row 41 (by decide) rfl ((iFigure_mask_2 _ _ _ _).trans (by decide)) (by change Instr.lwc1 _ _ _ = _; simp [encode])

theorem swc1 (ft : RegNum) (imm : Imm16) (rs : RegNum) : Statement (.swc1 ft imm rs) :=
  of_row 42 (by decide) rfl ((iFigure_mask_2 _ _ _ _).trans (by decide)) (by change Instr.swc1 _ _ _ = _; simp [encode])

theorem addS (fd fs ft : RegNum) : Statement (.addS fd fs ft) :=
  of_row 43 (by decide) rfl ((rFigure_mask_float _ _ _ _ _ _).trans (by decide)) (by change Instr.addS _ _ _ = _; simp [encode])

theorem addD (fd fs ft : RegNum) : Statement (.addD fd fs ft) :=
  of_row 44 (by decide) rfl ((rFigure_mask_float _ _ _ _ _ _).trans (by decide)) (by change Instr.addD _ _ _ = _; simp [encode])

theorem subS (fd fs ft : RegNum) : Statement (.subS fd fs ft) :=
  of_row 45 (by decide) rfl ((rFigure_mask_float _ _ _ _ _ _).trans (by decide)) (by change Instr.subS _ _ _ = _; simp [encode])

theorem subD (fd fs ft : RegNum) : Statement (.subD fd fs ft) :=
  of_row 46 (by decide) rfl ((rFigure_mask_float _ _ _ _ _ _).trans (by decide)) (by change Instr.subD _ _ _ = _; simp [encode])

theorem mulS (fd fs ft : RegNum) : Statement (.mulS fd fs ft) :=
  of_row 47 (by decide) rfl ((rFigure_mask_float _ _ _ _ _ _).trans (by decide)) (by change Instr.mulS _ _ _ = _; simp [encode])

theorem mulD (fd fs ft : RegNum) : Statement (.mulD fd fs ft) :=
  of_row 48 (by decide) rfl ((rFigure_mask_float _ _ _ _ _ _).trans (by decide)) (by change Instr.mulD _ _ _ = _; simp [encode])

theorem divS (fd fs ft : RegNum) : Statement (.divS fd fs ft) :=
  of_row 49 (by decide) rfl ((rFigure_mask_float _ _ _ _ _ _).trans (by decide)) (by change Instr.divS _ _ _ = _; simp [encode])

theorem divD (fd fs ft : RegNum) : Statement (.divD fd fs ft) :=
  of_row 50 (by decide) rfl ((rFigure_mask_float _ _ _ _ _ _).trans (by decide)) (by change Instr.divD _ _ _ = _; simp [encode])

end Sys2Proof.Laws.OwnRow
end

