-- ==== Sys2Proof/Laws/Terms.lean ====
section
/-! SUPPORT. The terms of Safety.lean against the machine's own operations: each says how a term that the statements use reads
in the words of Ops.lean. -/

namespace Sys2Proof.Machine

/-- The word of the statements is the word the machine fetches and loads. -/
theorem loadedWord_eq_wordAt (s : State) (a : Word) : loadedWord s a = s.wordAt a := by
  unfold loadedWord State.wordAt wordOfBytes
  cases s.platform.endian <;> simp

theorem wordAccess_iff (s : State) (k : AccessKind) (a : Word) : WordAccess s k a ↔ s.accessible a .word k = true := by
  rw [WordAccess, State.accessible, Bool.and_eq_true, aligned_word_iff]

theorem byteAccess_iff (s : State) (k : AccessKind) (a : Word) : ByteAccess s k a ↔ s.accessible a .byte k = true := by
  simp [ByteAccess, State.accessible, aligned]

/-- The bytes of the statements are the bytes the machine stores. -/
theorem byteAt_putWord_eq_storedWord (s : State) (a v c : Word) :
    (s.putWord a v).byteAt c = (storedWord s.platform.endian a v c).getD (s.byteAt c) := by
  rw [State.byteAt_putWord]
  unfold storedWord byteOfWord
  cases s.platform.endian <;> simp only [reduceCtorEq, if_true, if_false] <;> split_ifs <;> rfl

theorem byteAt_putByte_eq_storedByte (s : State) (a : Word) (b : Byte) (c : Word) :
    (s.putByte a b).byteAt c = (storedByte a b c).getD (s.byteAt c) := by
  rw [State.byteAt_putByte]
  unfold storedByte
  split_ifs <;> rfl

/-- The pair of the statements is the machine's. -/
theorem doubleAt_eq_pair (s : State) (n : RegNum) : doubleAt s n = s.pair n := rfl

/-- Even register numbers are those the machine's check admits. -/
theorem evenTriple_iff (fd fs ft : RegNum) : evenTriple fd fs ft = true ↔ EvenPair fd ∧ EvenPair fs ∧ EvenPair ft := by
  have h (n : RegNum) : evenReg n = true ↔ EvenPair n := by
    unfold EvenPair; revert n; decide
  simp [evenTriple, h, and_assoc]

/-! ### The ends of an instruction, in the terms of the statements -/

/-- A write to a general register, with its frame. -/
theorem gprWritten_setGpr (s : State) (rd : RegNum) (v : Word) : GprWritten s (s.setGpr rd v).advance rd v := by
  refine ⟨fun r => ?_, fun r => ?_, fun a => ?_, ⟨?_, ?_⟩, ⟨?_, ?_⟩, ?_, ?_⟩ <;> simp [SamePlatform, State.gpr_setGpr]

/-- Exception entry, with its frame. -/
theorem exceptionTaken_raise (s : State) (e : Exn) : ExceptionTaken s (s.raise e) (causeCode s.platform e) :=
  ⟨rfl, rfl, rfl, fun _ => rfl, fun _ => rfl, fun _ => rfl, ⟨rfl, rfl⟩, rfl, rfl⟩

/-- A write to a floating point register, with its frame. -/
theorem fprWritten_setFpr (s : State) (fd : RegNum) (v : Word) : FprWritten s (s.setFpr fd v).advance fd v 0 :=
  ⟨fun r => s.fpr_setFpr fd v r, fun _ => rfl, fun _ => rfl, ⟨rfl, rfl⟩, ⟨rfl, rfl⟩, rfl, rfl⟩

/-- A write to a pair of floating point registers, with its frame. -/
theorem fprPairWritten_setPair (s : State) (fd : RegNum) (v : DWord) : FprPairWritten s (s.setPair fd v).advance fd v 0 :=
  ⟨fun r => s.fpr_setPair fd v r, fun _ => rfl, fun _ => rfl, ⟨rfl, rfl⟩, ⟨rfl, rfl⟩, rfl, rfl⟩

/-- A stored word, with its frame. -/
theorem memoryWritten_putWord (s : State) (a v : Word) :
    MemoryWritten s (s.putWord a v).advance (storedWord s.platform.endian a v) :=
  ⟨fun c => (State.byteAt_advance _ c).trans (byteAt_putWord_eq_storedWord s a v c),
    fun r => (State.gpr_advance _ r).trans (State.gpr_putWord s a v r),
    fun r => (State.fpr_advance _ r).trans (State.fpr_putWord s a v r), by simp [SameHiLo], by simp [SameExceptionRegs],
    by simp [SamePlatform], by simp⟩

/-- A stored byte, with its frame. -/
theorem memoryWritten_putByte (s : State) (a : Word) (b : Byte) :
    MemoryWritten s (s.putByte a b).advance (storedByte a b) :=
  ⟨fun c => (State.byteAt_advance _ c).trans (byteAt_putByte_eq_storedByte s a b c), fun r => State.gpr_putByte s a b r,
    fun r => State.fpr_putByte s a b r, ⟨rfl, rfl⟩, ⟨rfl, rfl⟩, rfl, rfl⟩

/-! ### The values of floating point numbers (46_floating_point.md R231) -/

/-- A normal single precision number with the sign bit 0. -/
theorem singleValue_normal {b : Word} {e m : Nat} (he : (b.extractLsb' 23 8).toNat = e) (h0 : e ≠ 0)
    (hm : (b.extractLsb' 0 23).toNat = m) (hs : b.getLsbD 31 = false) :
    singleValue b = (1 + (m : ℚ) / 2 ^ 23) * 2 ^ ((e : ℤ) - 127) := by
  simp only [singleValue, he, hm, hs, h0, if_false, Bool.false_eq_true, one_mul]

/-- A normal double precision number with the sign bit 0. -/
theorem doubleValue_normal {b : DWord} {e m : Nat} (he : (b.extractLsb' 52 11).toNat = e) (h0 : e ≠ 0)
    (hm : (b.extractLsb' 0 52).toNat = m) (hs : b.getLsbD 63 = false) :
    doubleValue b = (1 + (m : ℚ) / 2 ^ 52) * 2 ^ ((e : ℤ) - 1023) := by
  simp only [doubleValue, he, hm, hs, h0, if_false, Bool.false_eq_true, one_mul]

theorem singleValue_zero {b : Word} (h : SingleZero b) : singleValue b = 0 := by
  have he : (b.extractLsb' 23 8).toNat = 0 := by rcases h with rfl | rfl <;> decide
  have hm : (b.extractLsb' 0 23).toNat = 0 := by rcases h with rfl | rfl <;> decide
  simp only [singleValue, he, hm, if_true, Nat.cast_zero, mul_zero, zero_mul]

theorem doubleValue_zero {b : DWord} (h : DoubleZero b) : doubleValue b = 0 := by
  have he : (b.extractLsb' 52 11).toNat = 0 := by rcases h with rfl | rfl <;> decide
  have hm : (b.extractLsb' 0 52).toNat = 0 := by rcases h with rfl | rfl <;> decide
  simp only [doubleValue, he, hm, if_true, Nat.cast_zero, mul_zero, zero_mul]

end Sys2Proof.Machine
end

