-- ==== Sys2Proof/Tests/Slice0.lean ====
section
/-! SUPPORT. The model's own tests, in four parts: decoding of words written out from the spec's encodings; the smoke tests of
the well-formedness check; one-step tests with the results of 95_test_vectors.md; and, for each statement of Obligations.lean
that has hypotheses, a state and operands that meet them. -/

namespace Sys2Proof.Tests

open Sys2Proof.Machine

/-! ### Decoding (95_test_vectors.md section 2.1) -/

theorem test_decode_register :
    decode 0b000000_00001_00010_00011_00000_100000#32 = .ok (.add 3 1 2) ∧
    decode 0b000000_00001_00010_00011_00000_100001#32 = .ok (.addu 3 1 2) ∧
    decode 0b000000_00001_00010_00011_00000_100010#32 = .ok (.sub 3 1 2) ∧
    decode 0b000000_00001_00010_00011_00000_100011#32 = .ok (.subu 3 1 2) ∧
    decode 0b000000_00100_00101_00000_00000_011000#32 = .ok (.mult 4 5) ∧
    decode 0b000000_00100_00101_00000_00000_011001#32 = .ok (.multu 4 5) ∧
    decode 0b000000_00100_00101_00000_00000_011010#32 = .ok (.div 4 5) ∧
    decode 0b000000_00100_00101_00000_00000_011011#32 = .ok (.divu 4 5) ∧
    decode 0b000000_00001_00010_00011_00000_101010#32 = .ok (.slt 3 1 2) ∧
    decode 0b000000_00001_00010_00011_00000_101011#32 = .ok (.sltu 3 1 2) ∧
    decode 0b000000_00001_00010_00011_00000_100100#32 = .ok (.and 3 1 2) ∧
    decode 0b000000_00001_00010_00011_00000_100101#32 = .ok (.or 3 1 2) ∧
    decode 0b000000_00001_00010_00011_00000_100111#32 = .ok (.nor 3 1 2) ∧
    decode 0b000000_00001_00010_00011_00000_101000#32 = .ok (.xor 3 1 2) := by
  decide

theorem test_decode_immediate :
    decode 0b001000_00001_00010_1111111111111111#32 = .ok (.addi 2 1 0xFFFF) ∧
    decode 0b001001_00001_00010_1111111111111111#32 = .ok (.addiu 2 1 0xFFFF) ∧
    decode 0b001010_00001_00010_1111111111111111#32 = .ok (.slti 2 1 0xFFFF) ∧
    decode 0b001011_00001_00010_1111111111111111#32 = .ok (.sltiu 2 1 0xFFFF) ∧
    decode 0b001100_00001_00010_1111111111111111#32 = .ok (.andi 2 1 0xFFFF) ∧
    decode 0b001101_00001_00010_1000000000000000#32 = .ok (.ori 2 1 0x8000) ∧
    decode 0b001110_00001_00010_1111111111111111#32 = .ok (.xori 2 1 0xFFFF) := by
  decide

theorem test_decode_memory :
    decode 0b100011_01001_01000_0000000000000100#32 = .ok (.lw 8 4 9) ∧
    decode 0b101011_01001_01000_1111111111111100#32 = .ok (.sw 8 0xFFFC 9) ∧
    decode 0b100100_01001_01000_0000000000000001#32 = .ok (.lbu 8 1 9) ∧
    decode 0b100000_01001_01000_0000000000000001#32 = .ok (.lb 8 1 9) ∧
    decode 0b101000_01001_01000_0000000000000011#32 = .ok (.sb 8 3 9) ∧
    decode 0b001111_00000_01000_0001001000110100#32 = .ok (.lui 8 0x1234) := by
  decide

theorem test_decode_control :
    decode 0b000100_00001_00010_0000000000000011#32 = .ok (.beq 1 2 3) ∧
    decode 0b000101_00001_00010_1111111111111110#32 = .ok (.bne 1 2 0xFFFE) ∧
    decode 0b000110_00001_00000_0000000000000101#32 = .ok (.blez 1 5) ∧
    decode 0b000111_00001_00000_0000000000000101#32 = .ok (.bgtz 1 5) ∧
    decode 0b000001_00001_00000_0000000000000101#32 = .ok (.bltz 1 5) ∧
    decode 0b000010_00000100000000000000000000#32 = .ok (.j 0x0100000) ∧
    decode 0b000011_00000100000000000000000000#32 = .ok (.jal 0x0100000) ∧
    decode 0b000000_11111_00000_00000_00000_001000#32 = .ok (.jr 31) ∧
    decode 0b000000_01000_00000_11111_00000_001001#32 = .ok (.jalr 31 8) := by
  decide

theorem test_decode_moves :
    decode 0b000000_00000_00000_00000_00000_000000#32 = .ok .nop ∧
    decode 0b000000_00000_00000_00010_00000_010000#32 = .ok (.mfhi 2) ∧
    decode 0b000000_00000_00000_00010_00000_010010#32 = .ok (.mflo 2) ∧
    decode 0b010000_00000_11010_01110_00000_000000#32 = .ok (.mfepc 26) ∧
    decode 0b010000_00000_11011_01101_00000_000000#32 = .ok (.mfco 27) := by
  decide

theorem test_decode_float :
    decode 0b110001_01001_00010_0000000000001000#32 = .ok (.lwc1 2 8 9) ∧
    decode 0b111001_01001_00010_0000000000001000#32 = .ok (.swc1 2 8 9) ∧
    decode 0b010001_00000_00110_00100_00010_000000#32 = .ok (.addS 2 4 6) ∧
    decode 0b010001_10001_00110_00100_00010_000000#32 = .ok (.addD 2 4 6) ∧
    decode 0b010001_00000_00110_00100_00010_000001#32 = .ok (.subS 2 4 6) ∧
    decode 0b010001_10001_00110_00100_00010_000001#32 = .ok (.subD 2 4 6) ∧
    decode 0b010001_00000_00110_00100_00010_000010#32 = .ok (.mulS 2 4 6) ∧
    decode 0b010001_10001_00110_00100_00010_000010#32 = .ok (.mulD 2 4 6) ∧
    decode 0b010001_00000_00110_00100_00010_000011#32 = .ok (.divS 2 4 6) ∧
    decode 0b010001_10001_00110_00100_00010_000011#32 = .ok (.divD 2 4 6) := by
  decide

/-- The words of 95_test_vectors.md section 2.7, each under the name of its rejection. -/
theorem test_decode_illegal :
    decode 0xFFFFFFFF#32 = .error .opcodeNotInMap ∧ decode 0x70000000#32 = .error .opcodeNotInMap ∧
    decode 0x00000040#32 = .error .constantField ∧ decode 0x00221826#32 = .error .functNotInMap ∧
    decode 0x0000000C#32 = .error .functNotInMap ∧ decode 0x00221860#32 = .error .constantField ∧
    decode 0x3C281234#32 = .error .constantField ∧ decode 0x04210005#32 = .error .branchRtField ∧
    decode 0x18210005#32 = .error .branchRtField ∧ decode 0x401A6000#32 = .error .cop0Pattern ∧
    decode 0x409A7000#32 = .error .cop0Pattern ∧ decode 0x46062080#32 = .error .cop1Pattern ∧
    decode 0x44062084#32 = .error .cop1Pattern := by
  decide

/-- The table's numbering of bits is the word's (opcode_table.json). -/
theorem test_decode_table_word : decodeTableWord 32 0x00221820 = some (.add 3 1 2) ∧ decodeTableWord 32 0xFFFFFFFF = none := by
  decide

/-! ### Well-formedness: an ill-formed term for each check (46_floating_point.md R236) -/

theorem test_wf_addD : (Instr.addD 3 4 6).wellFormed = false ∧ (Instr.addD 2 5 6).wellFormed = false ∧
    (Instr.addD 2 4 7).wellFormed = false ∧ (Instr.addD 2 4 6).wellFormed = true := by decide
theorem test_wf_subD : (Instr.subD 3 4 6).wellFormed = false ∧ (Instr.subD 2 5 6).wellFormed = false ∧
    (Instr.subD 2 4 7).wellFormed = false := by decide
theorem test_wf_mulD : (Instr.mulD 3 4 6).wellFormed = false ∧ (Instr.mulD 2 5 6).wellFormed = false ∧
    (Instr.mulD 2 4 7).wellFormed = false := by decide
theorem test_wf_divD : (Instr.divD 31 4 6).wellFormed = false ∧ (Instr.divD 2 31 6).wellFormed = false ∧
    (Instr.divD 2 4 31).wellFormed = false := by decide
/-- Odd numbers are fine in single precision (46_floating_point.md R223). -/
theorem test_wf_addS : (Instr.addS 3 5 7).wellFormed = true := by decide

/-! ### A small state and one step -/

/-- Every access legal, and a code for division by zero that tests can see. -/
def platform (e : Endian) : Platform :=
  { endian := e, legal := Config.launch.legal, causeDivZero := 77#32 }

/-- The start of 95_test_vectors.md part 2: the instruction is at 0x1000. -/
def start (e : Endian) : State :=
  { State.reset with pc := 0x1000#32, platform := platform e }

/-- `s` with general registers set. -/
def withX (l : List (RegNum × Word)) (s : State) : State :=
  l.foldl (fun s p => s.setGpr p.1 p.2) s

/-- `s` with floating point registers set. -/
def withF (l : List (RegNum × Word)) (s : State) : State :=
  l.foldl (fun s p => s.setFpr p.1 p.2) s

/-- The next state of a result, or `s` where there is none. -/
def nextOr (s : State) : Result → State
  | .next t => t
  | .fault _ => s
  | .refused _ => s

/-- Whether a result is a next state. -/
def goesOn : Result → Bool
  | .next _ => true
  | .fault _ => false
  | .refused _ => false

/-- `s` after one step. -/
def after (s : State) : State :=
  nextOr s (step s)

/-- `s` after the word `w`, placed at its pc, has been fetched, decoded and executed. -/
def run (w : Nat) (s : State) : State :=
  after (s.withFetchWord 32 w)

/-- The exception recorded at 0x1000 with this code (95_test_vectors.md part 2, conventions). -/
abbrev Raised (code : Word) (t : State) : Prop :=
  t.epc = 0x1000#32 ∧ t.cause = code ∧ t.pc = 0x80000180#32

theorem step_after {s : State} (h : goesOn (step s) = true) : step s = .next (after s) := by
  unfold after
  cases hs : step s with
  | next t => rfl
  | fault r => cases r
  | refused r => rw [hs] at h; cases h

theorem exec_nextOr {i : Instr} {s : State} (h : goesOn (exec i s) = true) : exec i s = .next (nextOr s (exec i s)) := by
  cases hs : exec i s with
  | next t => rfl
  | fault r => cases r
  | refused r => rw [hs] at h; cases h

/-! ### Register arithmetic (95_test_vectors.md section 2.2) -/

/-- Operands of the vectors for three registers. -/
def ab (a b : Word) : State :=
  withX [(1, a), (2, b), (3, 0x0000AAAA#32), (4, a), (5, b)] (start .big)

theorem test_add : (run 0x00221820 (ab 0xFFFFFFFF#32 1#32)).gpr 3 = 0#32 ∧
    (run 0x00221820 (ab 0x7FFFFFFE#32 1#32)).gpr 3 = 0x7FFFFFFF#32 := by decide
theorem test_add_overflow : Raised 12#32 (run 0x00221820 (ab 0x80000000#32 0xFFFFFFFF#32)) ∧
    (run 0x00221820 (ab 0x80000000#32 0xFFFFFFFF#32)).gpr 3 = 0x0000AAAA#32 := by decide
theorem test_addu : (run 0x00221821 (ab 0x7FFFFFFF#32 1#32)).gpr 3 = 0x80000000#32 := by decide
theorem test_sub : (run 0x00221822 (ab 5#32 7#32)).gpr 3 = 0xFFFFFFFE#32 := by decide
theorem test_sub_overflow : Raised 12#32 (run 0x00221822 (ab 0#32 0x80000000#32)) ∧
    Raised 12#32 (run 0x00221822 (ab 0x7FFFFFFF#32 0xFFFFFFFF#32)) := by decide
theorem test_subu : (run 0x00221823 (ab 0#32 1#32)).gpr 3 = 0xFFFFFFFF#32 := by decide
theorem test_mult : (run 0x00850018 (ab 0x80000000#32 0x7FFFFFFF#32)).hi = 0xC0000000#32 ∧
    (run 0x00850018 (ab 0x80000000#32 0x7FFFFFFF#32)).lo = 0x80000000#32 := by decide
theorem test_multu : (run 0x00850019 (ab 0xFFFFFFFF#32 0xFFFFFFFF#32)).hi = 0xFFFFFFFE#32 ∧
    (run 0x00850019 (ab 0xFFFFFFFF#32 0xFFFFFFFF#32)).lo = 1#32 := by decide
theorem test_div : (run 0x0085001A (ab 0xFFFFFFF9#32 2#32)).lo = 0xFFFFFFFD#32 ∧
    (run 0x0085001A (ab 7#32 0xFFFFFFFE#32)).hi = 1#32 := by decide
theorem test_div_corners : (run 0x0085001A (ab 0x80000000#32 0xFFFFFFFF#32)).lo = 0x80000000#32 ∧
    Raised 77#32 (run 0x0085001A (ab 7#32 0#32)) := by decide
theorem test_divu : (run 0x0085001B (ab 0x80000000#32 0xFFFFFFFF#32)).hi = 0x80000000#32 ∧
    (run 0x0085001B (ab 0xFFFFFFF9#32 2#32)).lo = 0x7FFFFFFC#32 := by decide
theorem test_divu_by_zero : Raised 77#32 (run 0x0085001B (ab 7#32 0#32)) := by decide
theorem test_slt : (run 0x0022182A (ab 0x80000000#32 0x7FFFFFFF#32)).gpr 3 = 1#32 ∧
    (run 0x0022182A (ab 5#32 5#32)).gpr 3 = 0#32 := by decide
theorem test_sltu : (run 0x0022182B (ab 0x80000000#32 0x7FFFFFFF#32)).gpr 3 = 0#32 ∧
    (run 0x0022182B (ab 0#32 1#32)).gpr 3 = 1#32 := by decide
theorem test_and : (run 0x00221824 (ab 0xF0F0FF00#32 0x0FF0F0F0#32)).gpr 3 = 0x00F0F000#32 := by decide
theorem test_or : (run 0x00221825 (ab 0xF0F0FF00#32 0x0FF0F0F0#32)).gpr 3 = 0xFFF0FFF0#32 := by decide
theorem test_nor : (run 0x00221827 (ab 0xF0F0FF00#32 0x0FF0F0F0#32)).gpr 3 = 0x000F000F#32 := by decide
theorem test_xor : (run 0x00221828 (ab 0xF0F0FF00#32 0x0FF0F0F0#32)).gpr 3 = 0xFF000FF0#32 := by decide
/-- The destination is also both sources; register 0 as destination. -/
theorem test_add_same_register : (run 0x00210820 (ab 0x3FFFFFFF#32 0#32)).gpr 1 = 0x7FFFFFFE#32 ∧
    (run 0x00220020 (ab 5#32 6#32)).gpr 0 = 0#32 := by decide

/-! ### Immediates (95_test_vectors.md section 2.3) -/

theorem test_addi : (run 0x20228000 (ab 0x00008000#32 0#32)).gpr 2 = 0#32 := by decide
theorem test_addi_overflow : Raised 12#32 (run 0x2022FFFF (ab 0x80000000#32 0xBBBB#32)) ∧
    (run 0x2022FFFF (ab 0x80000000#32 0xBBBB#32)).gpr 2 = 0xBBBB#32 := by decide
theorem test_addiu : (run 0x2422FFFF (ab 0x80000000#32 0#32)).gpr 2 = 0x7FFFFFFF#32 := by decide
theorem test_slti : (run 0x2822FFFF (ab 0xFFFFFFFE#32 0#32)).gpr 2 = 1#32 := by decide
theorem test_sltiu : (run 0x2C22FFFF (ab 0#32 0#32)).gpr 2 = 1#32 ∧
    (run 0x2C227FFF (ab 0x80000000#32 7#32)).gpr 2 = 0#32 := by decide
theorem test_andi : (run 0x30228000 (ab 0xFFFFFFFF#32 0#32)).gpr 2 = 0x00008000#32 := by decide
theorem test_ori : (run 0x34228000 (ab 0x12340000#32 0#32)).gpr 2 = 0x12348000#32 := by decide
theorem test_xori : (run 0x3822FFFF (ab 0xFFFF0000#32 0#32)).gpr 2 = 0xFFFFFFFF#32 := by decide
theorem test_lui : (run 0x3C088000 (ab 0#32 0#32)).gpr 8 = 0x80000000#32 := by decide

/-! ### Loads and stores (95_test_vectors.md section 2.4) -/

/-- The bytes 11 80 33 7F at 0x2004 and the registers of the vectors. -/
def memory (e : Endian) : State :=
  withX [(9, 0x2000#32), (13, 0xABCDEFEE#32), (15, 0xCAFEBABE#32), (8, 0x55#32)]
    ((((start e).putByte 0x2004 0x11).putByte 0x2005 0x80).putByte 0x2006 0x33 |>.putByte 0x2007 0x7F)

theorem test_lw : (run 0x8D280004 (memory .big)).gpr 8 = 0x1180337F#32 ∧
    (run 0x8D280004 (memory .little)).gpr 8 = 0x7F338011#32 := by decide
theorem test_lw_misaligned : Raised 4#32 (run 0x8D280002 (memory .big)) ∧
    (run 0x8D280002 (memory .big)).gpr 8 = 0x55#32 := by decide
theorem test_lbu : (run 0x912A0005 (memory .big)).gpr 10 = 0x00000080#32 := by decide
theorem test_lb : (run 0x812B0005 (memory .little)).gpr 11 = 0xFFFFFF80#32 ∧
    (run 0x812C0007 (memory .little)).gpr 12 = 0x0000007F#32 := by decide
theorem test_sb : (run 0xA12D0006 (memory .big)).byteAt 0x2006 = 0xEE#8 ∧
    (run 0xA12D0006 (memory .big)).byteAt 0x2007 = 0x7F#8 := by decide
theorem test_sw : (run 0xAD2FFFFC (memory .big)).byteAt 0x1FFC = 0xCA#8 ∧
    (run 0xAD2FFFFC (memory .little)).byteAt 0x1FFC = 0xBE#8 := by decide
theorem test_sw_misaligned : Raised 4#32 (run 0xAD280001 (memory .big)) := by decide

/-! ### Branches and jumps (95_test_vectors.md section 2.5) -/

theorem test_beq : (run 0x10220003 (ab 5#32 5#32)).pc = 0x1010#32 ∧ (run 0x10220003 (ab 5#32 6#32)).pc = 0x1004#32 := by decide
theorem test_beq_reach : (run 0x10227FFF (ab 9#32 9#32)).pc = 0x00021000#32 ∧
    (run 0x10228000 (ab 9#32 9#32)).pc = 0xFFFE1004#32 := by decide
theorem test_bne : (run 0x1422FFFE (ab 5#32 6#32)).pc = 0x0FFC#32 ∧ (run 0x1422FFFE (ab 5#32 5#32)).pc = 0x1004#32 := by decide
theorem test_blez : (run 0x18200005 (ab 0#32 0#32)).pc = 0x1018#32 ∧ (run 0x18200005 (ab 1#32 0#32)).pc = 0x1004#32 := by decide
theorem test_bgtz : (run 0x1C200005 (ab 1#32 0#32)).pc = 0x1018#32 ∧
    (run 0x1C200005 (ab 0x80000000#32 0#32)).pc = 0x1004#32 := by decide
theorem test_bltz : (run 0x04200005 (ab 0xFFFFFFFF#32 0#32)).pc = 0x1018#32 ∧
    (run 0x04200005 (ab 0#32 0#32)).pc = 0x1004#32 := by decide
theorem test_j : (run 0x08100000 { start .big with pc := 0x90000010#32 }).pc = 0x90400000#32 ∧
    (run 0x0BFFFFFF { start .big with pc := 0x0FFFFFFC#32 }).pc = 0x0FFFFFFC#32 := by decide
theorem test_jal : (run 0x0C100000 { start .big with pc := 0x90000010#32 }).pc = 0x90400000#32 ∧
    (run 0x0FFFFFFF { start .big with pc := 0x0FFFFFFC#32 }).gpr 31 = 0x10000000#32 := by decide
theorem test_jr : (run 0x03E00008 (withX [(31, 0x00400020#32)] (start .big))).pc = 0x00400020#32 := by decide
theorem test_jr_misaligned : (after (run 0x01000008 (withX [(8, 0x00400002#32)] (start .big)))).epc = 0x00400002#32 ∧
    (after (run 0x01000008 (withX [(8, 0x00400002#32)] (start .big)))).cause = 4#32 := by decide
theorem test_jalr : (run 0x0100F809 (withX [(8, 0x00400100#32)] (start .big))).gpr 31 = 0x1004#32 := by decide
theorem test_jalr_same_register : (run 0x01004009 (withX [(8, 0x00400100#32)] (start .big))).pc = 0x00400100#32 ∧
    (run 0x01004009 (withX [(8, 0x00400100#32)] (start .big))).gpr 8 = 0x1004#32 := by decide

/-! ### Moves (95_test_vectors.md section 2.6) and illegal words (section 2.7) -/

/-- HI, LO, EPC and CAUSE of the vectors. -/
def special : State :=
  { start .big with hi := 0xDEADBEEF#32, lo := 0x01234567#32, epc := 0x0040000C#32, cause := 0x0000000C#32 }

theorem test_nop : (run 0x00000000 special).pc = 0x1004#32 ∧ (run 0x00000000 special).hi = 0xDEADBEEF#32 := by decide
theorem test_mfhi : (run 0x00001010 special).gpr 2 = 0xDEADBEEF#32 := by decide
theorem test_mflo : (run 0x00001012 special).gpr 2 = 0x01234567#32 := by decide
theorem test_mfepc : (run 0x401A7000 special).gpr 26 = 0x0040000C#32 := by decide
theorem test_mfco : (run 0x401B6800 special).gpr 27 = 0x0000000C#32 := by decide
theorem test_illegal_word : Raised 10#32 (run 0x00221826 special) ∧ (run 0x00221826 special).hi = 0xDEADBEEF#32 := by decide

/-! ### Floating point (95_test_vectors.md section 2.8) -/

/-- Single precision operands `a` in `f[4]` and `b` in `f[6]`. -/
def single (a b : Word) : State :=
  withF [(2, 0x11111111#32), (4, a), (6, b)] (start .big)

/-- Double precision operands `a` in `f[4] || f[5]` and `b` in `f[6] || f[7]`. -/
def double (a b : DWord) : State :=
  ((start .big).setPair 4 a).setPair 6 b

theorem test_lwc1 : (run 0xC5220008 (withX [(9, 0x2000#32)] ((start .big).putWord 0x2008 0x3FC00000#32))).fpr 2 = 0x3FC00000#32 := by
  decide
theorem test_swc1 : (run 0xE522000C (withF [(2, 0x3FC00000#32)] (memory .big))).byteAt 0x200D = 0xC0#8 := by decide
theorem test_addS : (run 0x44062080 (single 0x3F800001#32 0x33800000#32)).fpr 2 = 0x3F800002#32 ∧
    (run 0x44062080 (single 0x7F7FFFFF#32 0x72FFFFFF#32)).fpr 2 = 0x7F7FFFFF#32 := by decide +kernel
theorem test_addS_overflow : Raised 12#32 (run 0x44062080 (single 0x7F7FFFFF#32 0x73000000#32)) ∧
    (run 0x44062080 (single 0x7F7FFFFF#32 0x73000000#32)).fpr 2 = 0x11111111#32 := by decide +kernel
theorem test_subS : (run 0x44062081 (single 0x3FC00000#32 0x40100000#32)).fpr 2 = 0xBF400000#32 := by decide +kernel
theorem test_mulS : (run 0x44062082 (single 0x00800000#32 0x3F000000#32)).fpr 2 = 0x00400000#32 := by decide +kernel
theorem test_divS : (run 0x44062083 (single 0x3FC00000#32 0x40100000#32)).fpr 2 = 0x3F2AAAAB#32 := by decide +kernel
theorem test_divS_by_zero : Raised 77#32 (run 0x44062083 (single 0x3F800000#32 0x80000000#32)) := by decide +kernel
theorem test_addD : doubleAt (run 0x46262080 (double 0x3FF8000000000000#64 0x4002000000000000#64)) 2 = 0x400E000000000000#64 := by
  decide +kernel
theorem test_subD : doubleAt (run 0x46262081 (double 0x3FF8000000000000#64 0x4002000000000000#64)) 2 = 0xBFE8000000000000#64 := by
  decide +kernel
theorem test_mulD : doubleAt (run 0x46262082 (double 0x3FF8000000000000#64 0x4002000000000000#64)) 2 = 0x400B000000000000#64 := by
  decide +kernel
theorem test_mulD_overflow : Raised 12#32 (run 0x46262082 (double 0x7FEFFFFFFFFFFFFF#64 0x4000000000000000#64)) := by
  decide +kernel
theorem test_divD : doubleAt (run 0x46262083 (double 0x3FF8000000000000#64 0x4002000000000000#64)) 2 = 0x3FE5555555555555#64 := by
  decide +kernel
theorem test_divD_by_zero : Raised 77#32 (run 0x46262083 (double 0x3FF0000000000000#64 0#64)) := by decide +kernel
/-- `0 / 0` gives a quiet NaN, which is a draw (46_floating_point.md R233). -/
theorem test_divS_invalid : (run 0x44062083 (single 0#32 0#32)).draws = 1 ∧
    (run 0x44062083 (single 0#32 0#32)).pc = 0x1004#32 := by decide +kernel
/-- `add.d $f3,$f4,$f6` is refused (46_floating_point.md R236). -/
theorem test_addD_odd : goesOn (step ((double 1#64 1#64).withFetchWord 32 0x462620C0)) = false := by decide +kernel

/-! ### Witnesses: for each statement of Obligations.lean, states and operands that meet its hypotheses together -/

/-- The word `w` at the pc of `s`. -/
def placed (w : Nat) (s : State) : State :=
  s.withFetchWord 32 w

/-- The memory accesses of the launch leave out everything. -/
def closed : State :=
  { start .big with platform := { platform .big with legal := [] } }

theorem witness_EncodeOfDecode : decode 0x00221820#32 = .ok (.add 3 1 2) := by decide
theorem witness_OneRowDecidesEachWord :
    (∃ r ∈ opcodeTable, r.hits 0x44062083#32 = true) ∧ ∀ r ∈ opcodeTable, r.hits 0xFFFFFFFF#32 = false := by decide
theorem witness_StepRunsDecodedInstruction :
    WordAccess (placed 0x00221820 (start .little)) .fetch (placed 0x00221820 (start .little)).pc ∧
    decode (loadedWord (placed 0x00221820 (start .little)) (placed 0x00221820 (start .little)).pc) = .ok (.add 3 1 2) := by
  decide
theorem witness_IllegalWordTakesCode10 :
    WordAccess (placed 0xFFFFFFFF (start .big)) .fetch (placed 0xFFFFFFFF (start .big)).pc ∧
    decode (loadedWord (placed 0xFFFFFFFF (start .big)) (placed 0xFFFFFFFF (start .big)).pc) = .error .opcodeNotInMap := by
  decide
theorem witness_FailedFetchTakesCode4 :
    ¬WordAccess { start .big with pc := 0x1001#32 } .fetch 0x1001#32 ∧ ¬WordAccess closed .fetch closed.pc := by
  decide
theorem witness_StepStopsOnlyAtOddRegisterPair :
    WordAccess (placed 0x462620C0 (start .big)) .fetch (placed 0x462620C0 (start .big)).pc ∧
    decode (loadedWord (placed 0x462620C0 (start .big)) (placed 0x462620C0 (start .big)).pc) = .ok (doubleInstr .add 3 4 6) ∧
    ¬(EvenPair (3#5) ∧ EvenPair (4#5) ∧ EvenPair (6#5)) := by
  decide

/-- The store of a word at the top of the address space, the state canonical before it. -/
theorem witness_StepKeepsInvariant :
    (placed 0xAC00FFFC (start .big)).Inv ∧
    step (placed 0xAC00FFFC (start .big)) = .next (after (placed 0xAC00FFFC (start .big))) :=
  ⟨by decide, step_after (by decide)⟩
theorem witness_StepKeepsLaunchParameters :
    step (placed 0x00221820 (start .little)) = .next (after (placed 0x00221820 (start .little))) :=
  step_after (by decide)
theorem witness_HiLoChangeOnlyByMultiplyDivide :
    step (placed 0x00850018 (ab 3#32 5#32)) = .next (after (placed 0x00850018 (ab 3#32 5#32))) ∧
    ¬SameHiLo (placed 0x00850018 (ab 3#32 5#32)) (after (placed 0x00850018 (ab 3#32 5#32))) :=
  ⟨step_after (by decide), by decide⟩
theorem witness_ExceptionRegistersChangeOnlyByEntry :
    step (placed 0xFFFFFFFF (start .big)) = .next (after (placed 0xFFFFFFFF (start .big))) ∧
    ¬SameExceptionRegs (placed 0xFFFFFFFF (start .big)) (after (placed 0xFFFFFFFF (start .big))) :=
  ⟨step_after (by decide), by decide⟩
theorem witness_FprChangesOnlyAtItsDestination :
    step (placed 0xC5220004 (memory .big)) = .next (after (placed 0xC5220004 (memory .big))) ∧
    (after (placed 0xC5220004 (memory .big))).fpr 2 ≠ (placed 0xC5220004 (memory .big)).fpr 2 :=
  ⟨step_after (by decide), by decide⟩
theorem witness_MemoryChangesOnlyAtStoredBytes :
    step (placed 0xA12D0006 (memory .big)) = .next (after (placed 0xA12D0006 (memory .big))) ∧
    (after (placed 0xA12D0006 (memory .big))).byteAt 0x2006#32 ≠ (placed 0xA12D0006 (memory .big)).byteAt 0x2006#32 :=
  ⟨step_after (by decide), by decide⟩
theorem witness_PcAlignmentLostOnlyByRegisterJump :
    (placed 0x01000008 (withX [(8, 0x00400002#32)] (start .big))).PcAligned ∧
    step (placed 0x01000008 (withX [(8, 0x00400002#32)] (start .big))) =
      .next (after (placed 0x01000008 (withX [(8, 0x00400002#32)] (start .big)))) ∧
    ¬(after (placed 0x01000008 (withX [(8, 0x00400002#32)] (start .big)))).PcAligned :=
  ⟨by decide, step_after (by decide), by decide⟩

/-- One instruction of each row of the table raises: an overflow, a division by zero, an illegal address. -/
theorem witness_ExecuteStageExceptionTable :
    (exec (.add 3 1 2) (ab 0x7FFFFFFF#32 1#32) =
        .next (nextOr (ab 0x7FFFFFFF#32 1#32) (exec (.add 3 1 2) (ab 0x7FFFFFFF#32 1#32))) ∧
      ¬SameExceptionRegs (ab 0x7FFFFFFF#32 1#32) (nextOr (ab 0x7FFFFFFF#32 1#32) (exec (.add 3 1 2) (ab 0x7FFFFFFF#32 1#32)))) ∧
    (exec (.div 4 5) (ab 7#32 0#32) = .next (nextOr (ab 7#32 0#32) (exec (.div 4 5) (ab 7#32 0#32))) ∧
      ¬SameExceptionRegs (ab 7#32 0#32) (nextOr (ab 7#32 0#32) (exec (.div 4 5) (ab 7#32 0#32)))) ∧
    (exec (.lw 8 4 9) closed = .next (nextOr closed (exec (.lw 8 4 9) closed)) ∧
      ¬SameExceptionRegs closed (nextOr closed (exec (.lw 8 4 9) closed))) :=
  ⟨⟨exec_nextOr (by decide), by decide⟩, ⟨exec_nextOr (by decide), by decide⟩, ⟨exec_nextOr (by decide), by decide⟩⟩
/-- The first and the last instruction of the list. -/
theorem witness_UnraisingInstructionsComplete :
    ∀ i ∈ [Instr.addu 3 1 2, Instr.mfco 27],
      mnemonicOf i ∈ ["addu", "subu", "mult", "multu", "slt", "sltu", "and", "or", "nor", "xor", "addiu", "slti", "sltiu",
        "andi", "ori", "xori", "lui", "beq", "bne", "blez", "bgtz", "bltz", "j", "jal", "jr", "jalr", "nop", "mfhi", "mflo",
        "mfepc", "mfco"] := by decide

/-- The two ends of the range, for each of the three instructions. -/
theorem witness_AddSubAddiExactInRange :
    ((2147483647 : Int) = ((ab 0x7FFFFFFE#32 1#32).gpr 1).toInt + ((ab 0x7FFFFFFE#32 1#32).gpr 2).toInt) ∧
    ((-2147483648 : Int) = ((ab 0xFFFFFFFF#32 0x7FFFFFFF#32).gpr 1).toInt - ((ab 0xFFFFFFFF#32 0x7FFFFFFF#32).gpr 2).toInt) ∧
    ((-2147483648 : Int) = ((ab 0x80000001#32 0#32).gpr 1).toInt + (0xFFFF#16).toInt) := by decide

/-- One beyond the range, for each of the three instructions. -/
theorem witness_AddSubAddiOverflowTakesCode12 :
    ((2147483648 : Int) = ((ab 0x7FFFFFFF#32 1#32).gpr 1).toInt + ((ab 0x7FFFFFFF#32 1#32).gpr 2).toInt) ∧
    ((2147483648 : Int) = ((ab 0#32 0x80000000#32).gpr 1).toInt - ((ab 0#32 0x80000000#32).gpr 2).toInt) ∧
    ((-2147483649 : Int) = ((ab 0x80000000#32 0#32).gpr 1).toInt + (0xFFFF#16).toInt) := by decide
theorem witness_DivideSigned :
    ((ab 0x80000000#32 1#32).gpr 5 ≠ 0#32 ∧
      ¬((ab 0x80000000#32 1#32).gpr 4 = 0x80000000#32 ∧ (ab 0x80000000#32 1#32).gpr 5 = 0xFFFFFFFF#32)) ∧
    ((ab 0x80000000#32 0xFFFFFFFF#32).gpr 5 ≠ 0#32 ∧ (ab 0x80000000#32 0xFFFFFFFF#32).gpr 4 = 0x80000000#32 ∧
      (ab 0x80000000#32 0xFFFFFFFF#32).gpr 5 = 0xFFFFFFFF#32) := by decide
theorem witness_DivideUnsigned : (ab 0x80000000#32 1#32).gpr 5 ≠ 0#32 := by decide
theorem witness_DivideByZeroTraps : (ab 7#32 0#32).gpr 5 = 0#32 := by decide
theorem witness_LuiUpperImmediate : (1#5 : RegNum) ≠ 0#5 ∧ (31#5 : RegNum) ≠ 0#5 := by decide

/-- The highest word and the highest byte of the address space. -/
theorem witness_WordLoads :
    0xFFFFFFFC#32 = (start .little).gpr 0 + (0xFFFC#16).signExtend 32 ∧ WordAccess (start .little) .load 0xFFFFFFFC#32 := by
  decide
theorem witness_ByteLoads :
    0xFFFFFFFF#32 = (start .big).gpr 0 + (0xFFFF#16).signExtend 32 ∧ ByteAccess (start .big) .load 0xFFFFFFFF#32 := by
  decide
theorem witness_WordStores :
    WordAccess (start .big) .store ((start .big).effectiveAddress 0 0xFFFC) ∧
    WordAccess (start .little) .store ((start .little).effectiveAddress 0 0) := by decide
theorem witness_ByteStore : ByteAccess (start .big) .store ((start .big).effectiveAddress 0 0xFFFF) := by decide

/-- A misaligned address and an illegal one, for each kind of access. -/
theorem witness_FailedDataAccessTakesCode4 :
    2#32 = (start .big).gpr 0 + (2#16).signExtend 32 ∧ ¬WordAccess (start .big) .load 2#32 ∧ ¬WordAccess (start .big) .store 2#32 ∧
    4#32 = closed.gpr 0 + (4#16).signExtend 32 ∧ ¬WordAccess closed .load 4#32 ∧ ¬WordAccess closed .store 4#32 ∧
    ¬ByteAccess closed .load 4#32 ∧ ¬ByteAccess closed .store 4#32 := by decide

/-- The first and the last byte of the stored word, read through register 0. -/
theorem witness_WordStoreThenByteLoad :
    WordAccess (memory .little) .store ((memory .little).effectiveAddress 0 0x2000) ∧
    (let t := nextOr (memory .little) (exec (.sw 15 0x2000 0) (memory .little))
     t.effectiveAddress 0 0x2000 = (memory .little).effectiveAddress 0 0x2000 + BitVec.ofNat 32 0 ∧
     t.effectiveAddress 0 0x2003 = (memory .little).effectiveAddress 0 0x2000 + BitVec.ofNat 32 3 ∧
     ByteAccess t .load (t.effectiveAddress 0 0x2000) ∧ ByteAccess t .load (t.effectiveAddress 0 0x2003)) := by decide

/-- The word stored at the pc of the state after the store is that of `add`. -/
def selfModified : State :=
  { nextOr (start .big) (exec (.sw 8 0x2000 0) (withX [(8, 0x00221820#32)] (start .big))) with pc := 0x2000#32 }
theorem witness_StoredWordIsFetched :
    WordAccess (withX [(8, 0x00221820#32)] (start .big)) .store ((withX [(8, 0x00221820#32)] (start .big)).effectiveAddress 0 0x2000) ∧
    decode ((withX [(8, 0x00221820#32)] (start .big)).gpr 8) = .ok (.add 3 1 2) ∧
    SameMemory (nextOr (start .big) (exec (.sw 8 0x2000 0) (withX [(8, 0x00221820#32)] (start .big)))) selfModified ∧
    selfModified.pc = (withX [(8, 0x00221820#32)] (start .big)).effectiveAddress 0 0x2000 ∧
    WordAccess selfModified .fetch selfModified.pc :=
  ⟨by decide, by decide, fun _ => rfl, by decide, by decide⟩
theorem witness_SignBranches : (31#5 : RegNum) ≠ 0#5 ∧ (1#5 : RegNum) ≠ 0#5 ∧ (6#6 = (6#6 : BitVec 6)) := by decide
/-- Each of the five conditions at the boundary of its range, an aligned pc, and the two offsets. -/
theorem witness_TakenBranchTarget :
    (ab 5#32 5#32).gpr 1 = (ab 5#32 5#32).gpr 2 ∧ (ab 5#32 6#32).gpr 1 ≠ (ab 5#32 6#32).gpr 2 ∧
    ((ab 0#32 0#32).gpr 1).toInt ≤ 0 ∧ 0 < ((ab 1#32 0#32).gpr 1).toInt ∧ ((ab 0xFFFFFFFF#32 0#32).gpr 1).toInt < 0 ∧
    (ab 5#32 5#32).PcAligned ∧ (0xFFFF#16 : Imm16) ≠ 0#16 := by decide
theorem witness_RegisterJumpThenFetch : ((withX [(8, 0x00400003#32)] (start .big)).gpr 8).toNat % 4 ≠ 0 := by decide
theorem witness_ReturnFromException : (1#5 : RegNum) ≠ 0#5 ∧ (31#5 : RegNum) ≠ 0#5 := by decide
theorem witness_UnfetchableVectorLoops :
    ({ closed with pc := 0x80000180#32 } : State).pc = 0x80000180#32 ∧
    legalAddr closed.platform 0x80000180#32 .word .fetch = false := by decide

/-! The floating point statements. -/

theorem singleValue_one_half : singleValue 0x3FC00000#32 = 3 / 2 := by
  rw [singleValue_normal (e := 127) (m := 0x400000) (by decide) (by decide) (by decide) (by decide)]; norm_num
theorem singleValue_largest : singleValue 0x7F7FFFFF#32 = (2 - 1 / 2 ^ 23) * 2 ^ 127 := by
  rw [singleValue_normal (e := 254) (m := 0x7FFFFF) (by decide) (by decide) (by decide) (by decide)]; norm_num
theorem doubleValue_one_half : doubleValue 0x3FF8000000000000#64 = 3 / 2 := by
  rw [doubleValue_normal (e := 1023) (m := 0x8000000000000) (by decide) (by decide) (by decide) (by decide)]; norm_num
theorem doubleValue_largest : doubleValue 0x7FEFFFFFFFFFFFFF#64 = (2 - 1 / 2 ^ 52) * 2 ^ 1023 := by
  rw [doubleValue_normal (e := 2046) (m := 0xFFFFFFFFFFFFF) (by decide) (by decide) (by decide) (by decide),
    show (((2046 : Nat) : ℤ) - 1023) = ((1023 : Nat) : ℤ) by norm_num, zpow_natCast]
  congr 1; norm_num

/-- One pair of operands for all four operations. -/
theorem witness_SingleArithmeticRoundsToNearest :
    let s := single 0x3FC00000#32 0x3FC00000#32
    SingleFinite (s.fpr 4) ∧ SingleFinite (s.fpr 6) ∧ ¬SingleZero (s.fpr 6) ∧
      ∀ op, |exactResult op (singleValue (s.fpr 4)) (singleValue (s.fpr 6))| < singleLimit := by
  refine ⟨by decide, by decide, by decide, fun op => ?_⟩
  change |exactResult op (singleValue 0x3FC00000#32) (singleValue 0x3FC00000#32)| < singleLimit
  rw [singleValue_one_half]
  cases op <;> norm_num [singleLimit, exactResult]

/-- One pair of operands for all four operations. -/
theorem witness_DoubleArithmeticRoundsToNearest :
    let s := double 0x3FF8000000000000#64 0x3FF8000000000000#64
    EvenPair (2#5) ∧ EvenPair (4#5) ∧ EvenPair (6#5) ∧ DoubleFinite (doubleAt s 4) ∧ DoubleFinite (doubleAt s 6) ∧
      ¬DoubleZero (doubleAt s 6) ∧
      ∀ op, |exactResult op (doubleValue (doubleAt s 4)) (doubleValue (doubleAt s 6))| < doubleLimit := by
  have h : doubleAt (double 0x3FF8000000000000#64 0x3FF8000000000000#64) 4 = 0x3FF8000000000000#64 := by decide
  have h' : doubleAt (double 0x3FF8000000000000#64 0x3FF8000000000000#64) 6 = 0x3FF8000000000000#64 := by decide
  refine ⟨by decide, by decide, by decide, by decide, by decide, by decide, fun op => ?_⟩
  rw [h, h', doubleValue_one_half, doubleLimit]
  have hp : (2 : ℚ) ^ 2 ≤ 2 ^ 1023 := pow_le_pow_right₀ (by norm_num) (by norm_num)
  generalize (2 : ℚ) ^ 1023 = p at hp ⊢
  cases op <;> norm_num [exactResult] at hp ⊢ <;> linarith

/-- Twice the largest finite number, in both formats. -/
theorem witness_FloatOverflowTakesCode12 :
    (let s := single 0x7F7FFFFF#32 0x7F7FFFFF#32
     SingleFinite (s.fpr 4) ∧ SingleFinite (s.fpr 6) ∧
       singleLimit ≤ |exactResult .add (singleValue (s.fpr 4)) (singleValue (s.fpr 6))|) ∧
    (let s := double 0x7FEFFFFFFFFFFFFF#64 0x7FEFFFFFFFFFFFFF#64
     EvenPair (2#5) ∧ EvenPair (4#5) ∧ EvenPair (6#5) ∧ DoubleFinite (doubleAt s 4) ∧ DoubleFinite (doubleAt s 6) ∧
       doubleLimit ≤ |exactResult .add (doubleValue (doubleAt s 4)) (doubleValue (doubleAt s 6))|) := by
  have h : doubleAt (double 0x7FEFFFFFFFFFFFFF#64 0x7FEFFFFFFFFFFFFF#64) 4 = 0x7FEFFFFFFFFFFFFF#64 := by decide
  have h' : doubleAt (double 0x7FEFFFFFFFFFFFFF#64 0x7FEFFFFFFFFFFFFF#64) 6 = 0x7FEFFFFFFFFFFFFF#64 := by decide
  refine ⟨⟨by decide, by decide, ?_⟩, ⟨by decide, by decide, by decide, by decide, by decide, ?_⟩⟩
  · change singleLimit ≤ |singleValue 0x7F7FFFFF#32 + singleValue 0x7F7FFFFF#32|
    rw [singleValue_largest]; norm_num [singleLimit]
  · rw [h, h', exactResult, doubleValue_largest, doubleLimit]
    have hp : (0 : ℚ) < 2 ^ 1023 := by positivity
    generalize (2 : ℚ) ^ 1023 = p at hp ⊢
    refine le_trans ?_ (le_abs_self _)
    norm_num; linarith
theorem witness_FloatDivideByZeroTraps :
    (let s := single 0x00000001#32 0x80000000#32
     SingleFinite (s.fpr 4) ∧ ¬SingleZero (s.fpr 4) ∧ SingleZero (s.fpr 6)) ∧
    (let s := double 0x0000000000000001#64 0#64
     EvenPair (2#5) ∧ EvenPair (4#5) ∧ EvenPair (6#5) ∧ DoubleFinite (doubleAt s 4) ∧ ¬DoubleZero (doubleAt s 4) ∧ DoubleZero (doubleAt s 6)) := by decide

/-- `0 / 0`, a signalling NaN, and `inf - inf`. -/
theorem witness_InvalidOperationGivesQuietNaN :
    SingleInvalid .div ((single 0#32 0x80000000#32).fpr 4) ((single 0#32 0x80000000#32).fpr 6) ∧
    SingleInvalid .mul ((single 0x7F800001#32 0#32).fpr 4) ((single 0x7F800001#32 0#32).fpr 6) ∧
    EvenPair (2#5) ∧ EvenPair (4#5) ∧ EvenPair (6#5) ∧
    DoubleInvalid .sub (doubleAt (double 0x7FF0000000000000#64 0x7FF0000000000000#64) 4)
      (doubleAt (double 0x7FF0000000000000#64 0x7FF0000000000000#64) 6) := by
  refine ⟨.inr (.inr (.inl ?_)), .inl ?_, by decide, by decide, by decide, .inr (.inr ?_)⟩
  · decide
  · decide
  · change DoubleInfinite _ ∧ DoubleInfinite _ ∧ _ = _
    decide

/-- `inf / 0` and `1 / inf`. -/
theorem witness_InfiniteOperandResults :
    (¬SingleInvalid .div ((single 0x7F800000#32 0#32).fpr 4) ((single 0x7F800000#32 0#32).fpr 6) ∧
      SingleInfinite ((single 0x7F800000#32 0#32).fpr 4)) ∧
    (EvenPair (2#5) ∧ EvenPair (4#5) ∧ EvenPair (6#5) ∧ ¬DoubleInvalid .div (doubleAt (double 0x3FF0000000000000#64 0xFFF0000000000000#64) 4)
        (doubleAt (double 0x3FF0000000000000#64 0xFFF0000000000000#64) 6) ∧
      DoubleInfinite (doubleAt (double 0x3FF0000000000000#64 0xFFF0000000000000#64) 6)) := by
  refine ⟨⟨?_, by decide⟩, ⟨by decide, by decide, by decide, ?_, by decide⟩⟩
  · rintro (h | h | h | h) <;> revert h <;> decide
  · rintro (h | h | h | h) <;> revert h <;> decide

/-- `1.5 - 1.5`, and `-0 * 1.5`. -/
theorem witness_ExactZeroKeepsItsSign :
    (let s := single 0x3FC00000#32 0x3FC00000#32
     SingleFinite (s.fpr 4) ∧ SingleFinite (s.fpr 6) ∧
       exactResult .sub (singleValue (s.fpr 4)) (singleValue (s.fpr 6)) = 0) ∧
    (let s := double 0x8000000000000000#64 0x3FF8000000000000#64
     EvenPair (2#5) ∧ EvenPair (4#5) ∧ EvenPair (6#5) ∧ DoubleFinite (doubleAt s 4) ∧ DoubleFinite (doubleAt s 6) ∧
       exactResult .mul (doubleValue (doubleAt s 4)) (doubleValue (doubleAt s 6)) = 0) := by
  have h : doubleAt (double 0x8000000000000000#64 0x3FF8000000000000#64) 4 = 0x8000000000000000#64 := by decide
  refine ⟨⟨by decide, by decide, sub_self _⟩, ⟨by decide, by decide, by decide, by decide, by decide, ?_⟩⟩
  rw [h, exactResult, doubleValue_zero (.inr rfl), zero_mul]
theorem witness_OddRegisterPairRefused :
    ¬(EvenPair (31#5) ∧ EvenPair (4#5) ∧ EvenPair (6#5)) ∧ ¬(EvenPair (2#5) ∧ EvenPair (5#5) ∧ EvenPair (6#5)) ∧
    ¬(EvenPair (2#5) ∧ EvenPair (4#5) ∧ EvenPair (7#5)) := by decide

end Sys2Proof.Tests
end

section
/-! PROOFS. The rows of the opcode table exclude each other, so that the row a word matches is the one the decoder finds. -/

namespace Sys2Proof

/-- Two rows of the table ask for different values of some bit that both their masks hold. -/
def Row.Apart (r q : Row) : Prop :=
  r.pattern &&& q.mask ≠ q.pattern &&& r.mask

theorem Row.Apart.symm {r q : Row} (h : r.Apart q) : q.Apart r :=
  Ne.symm h

/-- No word matches two rows that are apart: it would give the bits under both masks both patterns' values. -/
theorem Row.Apart.not_hits_both {r q : Row} (h : r.Apart q) (w : Word) : ¬(r.hits w = true ∧ q.hits w = true) := by
  simp only [Row.hits, beq_iff_eq]
  rintro ⟨hr, hq⟩
  apply h
  rw [← hr, ← hq, BitVec.and_assoc, BitVec.and_assoc, BitVec.and_comm r.mask]

/-- The 51 rows are pairwise apart (30_encoding.md section 4). -/
theorem opcodeTable_pairwise_apart : opcodeTable.Pairwise Row.Apart := by
  unfold Row.Apart
  decide

/-- A word matches at most one row of the table. -/
theorem row_eq_of_hits {r q : Row} (hr : r ∈ opcodeTable) (hq : q ∈ opcodeTable) {w : Word} (hrw : r.hits w = true)
    (hqw : q.hits w = true) : q = r := by
  by_contra hne
  have hsymm : Std.Symm Row.Apart := ⟨fun _ _ => Row.Apart.symm⟩
  have hapart : q.Apart r := opcodeTable_pairwise_apart.forall hq hr hne
  exact hapart.not_hits_both w ⟨hqw, hrw⟩

/-- The decoder reads a word by the row that it matches, whichever that is (30_encoding.md R91). -/
theorem decode_of_hits {r : Row} (hr : r ∈ opcodeTable) {w : Word} (hw : r.hits w = true) :
    decode w = .ok (r.build w) := by
  unfold decode
  cases hfind : opcodeTable.find? (fun q => q.hits w) with
  | none => exact absurd hw (List.find?_eq_none.mp hfind r hr)
  | some q =>
    have hq : q.hits w = true := List.find?_some (p := fun q : Row => q.hits w) hfind
    rw [row_eq_of_hits hr (List.mem_of_find?_eq_some hfind) hw hq]

/-- An instruction whose own row reads its word back is what the decoder makes of that word. -/
theorem decode_encode_of_ownRow {i : Instr} (h : Laws.OwnRow.Statement i) : decode (encode i) = .ok i := by
  obtain ⟨r, hr, -, hhits, hbuild⟩ := h
  rw [decode_of_hits hr hhits, hbuild]

/-- The same for a word that a statement writes out field by field: it is the encoder's word. -/
theorem decode_of_eq_encode {i : Instr} {w : Word} (hw : w = encode i) (h : Laws.OwnRow.Statement i) :
    decode w = .ok i :=
  hw ▸ decode_encode_of_ownRow h

end Sys2Proof
end

section
/-! PROOFS. Instructions that end by writing one general register. -/

namespace Sys2Proof.Machine

/-- An instruction that ends in `writeGpr` completes, advances the pc and writes that register only. -/
theorem exec_gprWritten {i : Instr} {s : State} {rd : RegNum} {v : Word} (h : exec i s = writeGpr rd v s) :
    ∃ t, exec i s = .next t ∧ t.pc = s.pc + 4#32 ∧ GprWritten s t rd v :=
  ⟨(s.setGpr rd v).advance, h, by simp, gprWritten_setGpr s rd v⟩

/-! ### The results of the operations, as the statements spell them -/

/-- The 0 or 1 of an unsigned comparison (40_arith_register.md R120). -/
theorem truthWord_lessUnsigned (a b : Word) : truthWord (lessUnsigned a b) = if a.toNat < b.toNat then 1#32 else 0#32 := by
  simp [truthWord, lessUnsigned]

/-- The 0 or 1 of a signed comparison (40_arith_register.md R119). -/
theorem truthWord_lessSigned (a b : Word) : truthWord (lessSigned a b) = if a.toInt < b.toInt then 1#32 else 0#32 := by
  simp [truthWord, lessSigned]

/-- Sign extension puts 16 copies of bit 15 above the immediate (30_encoding.md R85). -/
theorem sextImm_eq_append (imm : Imm16) : sextImm imm = (if imm.getLsbD 15 then 0xFFFF#16 else 0x0000#16) ++ imm := by
  have hmsb : imm.msb = imm.getLsbD 15 := rfl
  rw [sextImm, BitVec.signExtend_eq_append_of_le (by decide), hmsb]
  rfl

/-! ### What each instruction writes -/

theorem exec_addu (rd rs rt : RegNum) (s : State) :
    exec (.addu rd rs rt) s = writeGpr rd (s.gpr rs + s.gpr rt) s := rfl

theorem exec_subu (rd rs rt : RegNum) (s : State) :
    exec (.subu rd rs rt) s = writeGpr rd (s.gpr rs - s.gpr rt) s := rfl

theorem exec_or (rd rs rt : RegNum) (s : State) :
    exec (.or rd rs rt) s = writeGpr rd (s.gpr rs ||| s.gpr rt) s := rfl

theorem exec_nor (rd rs rt : RegNum) (s : State) :
    exec (.nor rd rs rt) s = writeGpr rd (~~~(s.gpr rs ||| s.gpr rt)) s := rfl

theorem exec_sltu (rd rs rt : RegNum) (s : State) :
    exec (.sltu rd rs rt) s = writeGpr rd (if (s.gpr rs).toNat < (s.gpr rt).toNat then 1#32 else 0#32) s := by
  rw [← truthWord_lessUnsigned]; rfl

theorem exec_slti (rt rs : RegNum) (imm : Imm16) (s : State) :
    exec (.slti rt rs imm) s = writeGpr rt (if (s.gpr rs).toInt < (sextImm imm).toInt then 1#32 else 0#32) s := by
  rw [← truthWord_lessSigned]; rfl

theorem exec_sltiu (rt rs : RegNum) (imm : Imm16) (s : State) :
    exec (.sltiu rt rs imm) s = writeGpr rt (if (s.gpr rs).toNat < (sextImm imm).toNat then 1#32 else 0#32) s := by
  rw [← truthWord_lessUnsigned]; rfl

end Sys2Proof.Machine
end

section
/-! PROOFS. Register arithmetic, comparison and logic (40_arith_register.md; 41_arith_immediate.md). -/

namespace Sys2Proof.Machine

open Sys2Proof.Laws

/-- Settles O21: the word is the encoder's, whose own row reads it back; the result is what `exec` hands to `writeGpr`. -/
theorem adduSubuModulo : Obligations.AdduSubuModulo := by
  intro s rd rs rt
  refine ⟨?_, ?_, ?_, ?_⟩
  · exact decode_of_eq_encode rfl (OwnRow.addu rd rs rt)
  · exact exec_gprWritten (exec_addu rd rs rt s)
  · exact decode_of_eq_encode rfl (OwnRow.subu rd rs rt)
  · exact exec_gprWritten (exec_subu rd rs rt s)

/-- Settles O29: the comparisons go through `truthWord`, and both immediate forms through the one sign extension. -/
theorem sltuSltiSltiuCompare : Obligations.SltuSltiSltiuCompare := by
  intro s rd rs rt imm
  simp only [← sextImm_eq_append]
  refine ⟨?_, ?_, ?_, ?_, ?_, ?_⟩
  · exact decode_of_eq_encode rfl (OwnRow.sltu rd rs rt)
  · exact exec_gprWritten (exec_sltu rd rs rt s)
  · exact decode_of_eq_encode rfl (OwnRow.slti rt rs imm)
  · exact exec_gprWritten (exec_slti rt rs imm s)
  · exact decode_of_eq_encode rfl (OwnRow.sltiu rt rs imm)
  · exact exec_gprWritten (exec_sltiu rt rs imm s)

/-- Settles O31: the written word is the bitwise operation of the whole words, read off bit by bit. -/
theorem orNorBitwise : Obligations.OrNorBitwise := by
  intro s rd rs rt
  refine ⟨?_, ?_, ?_, ?_⟩
  · exact decode_of_eq_encode rfl (OwnRow.or rd rs rt)
  · obtain ⟨t, hnext, hpc, hwritten⟩ := exec_gprWritten (exec_or rd rs rt s)
    exact ⟨t, _, hnext, hpc, hwritten, fun k _ => BitVec.getLsbD_or⟩
  · exact decode_of_eq_encode rfl (OwnRow.nor rd rs rt)
  · obtain ⟨t, hnext, hpc, hwritten⟩ := exec_gprWritten (exec_nor rd rs rt s)
    exact ⟨t, _, hnext, hpc, hwritten, fun k hk => by simp [hk]⟩

end Sys2Proof.Machine
end

section
/-! PROOFS. What `addiu` and the logical immediates write (41_arith_immediate.md R142, R145 to R147). -/

namespace Sys2Proof.Machine

open Sys2Proof.Laws

/-- Zero extension puts 16 zeros above the immediate (30_encoding.md R85). -/
theorem zextImm_eq_append (imm : Imm16) : zextImm imm = 0x0000#16 ++ imm :=
  BitVec.setWidth_eq_append (by decide)

theorem exec_addiu (rt rs : RegNum) (imm : Imm16) (s : State) :
    exec (.addiu rt rs imm) s = writeGpr rt (s.gpr rs + sextImm imm) s := rfl

theorem exec_andi (rt rs : RegNum) (imm : Imm16) (s : State) :
    exec (.andi rt rs imm) s = writeGpr rt (s.gpr rs &&& zextImm imm) s := rfl

theorem exec_ori (rt rs : RegNum) (imm : Imm16) (s : State) :
    exec (.ori rt rs imm) s = writeGpr rt (s.gpr rs ||| zextImm imm) s := rfl

theorem exec_xori (rt rs : RegNum) (imm : Imm16) (s : State) :
    exec (.xori rt rs imm) s = writeGpr rt (s.gpr rs ^^^ zextImm imm) s := rfl

/-- Settles O32: the sum goes to `writeGpr` with no overflow check; the statement's operand is the sign extension. -/
theorem addiuModulo : Obligations.AddiuModulo := by
  intro s rt rs imm
  rw [← sextImm_eq_append]
  refine ⟨?_, ?_⟩
  · exact decode_of_eq_encode rfl (OwnRow.addiu rt rs imm)
  · exact exec_gprWritten (exec_addiu rt rs imm s)

/-- Settles O33: all three go to `writeGpr` with the one zero extension as the second operand. -/
theorem logicalImmediatesZeroExtend : Obligations.LogicalImmediatesZeroExtend := by
  intro s rt rs imm
  rw [← zextImm_eq_append]
  refine ⟨?_, ?_, ?_, ?_, ?_, ?_⟩
  · exact decode_of_eq_encode rfl (OwnRow.andi rt rs imm)
  · exact exec_gprWritten (exec_andi rt rs imm s)
  · exact decode_of_eq_encode rfl (OwnRow.ori rt rs imm)
  · exact exec_gprWritten (exec_ori rt rs imm s)
  · exact decode_of_eq_encode rfl (OwnRow.xori rt rs imm)
  · exact exec_gprWritten (exec_xori rt rs imm s)

end Sys2Proof.Machine
end

section
/-! PROOFS. Branches and jumps that write nothing but the pc (43_branch_jump.md R181 to R184, R188). -/

namespace Sys2Proof.Machine

open Sys2Proof.Laws

/-! ### Ends that set the pc only -/

/-- A jump writes nothing but the pc. -/
theorem nothingWritten_jumpTo (s : State) (a : Word) : NothingWritten s (s.jumpTo a) :=
  ⟨fun r => s.gpr_jumpTo a r, fun r => s.fpr_jumpTo a r, fun c => s.byteAt_jumpTo a c, ⟨rfl, rfl⟩, ⟨rfl, rfl⟩, rfl, rfl⟩

/-- An instruction that ends in `jumpTo` completes, sets the pc and writes nothing else. -/
theorem exec_nothingWritten {i : Instr} {s : State} {a : Word} (h : exec i s = .next (s.jumpTo a)) :
    ∃ t, exec i s = .next t ∧ NothingWritten s t ∧ t.pc = a :=
  ⟨s.jumpTo a, h, nothingWritten_jumpTo s a, s.jumpTo_pc a⟩

/-! ### Targets, as the statements spell them -/

/-- Sign extension of `offset || 00` puts 14 copies of the offset's bit 15 above it (30_encoding.md R85). -/
theorem branchDisplacement_eq_displacement (offset : Imm16) : branchDisplacement offset = displacement offset := by
  have hmsb : (offset ++ 0#2).msb = offset.getLsbD 15 := BitVec.msb_append
  rw [branchDisplacement, BitVec.signExtend_eq_append_of_le (by decide), hmsb, displacement, BitVec.append_assoc]
  rfl

/-- Both ends of a conditional branch are jumps: to the target, or to the next instruction (43_branch_jump.md R181). -/
theorem branchIf_eq_jumpTo (s : State) (taken : Bool) (offset : Imm16) :
    s.branchIf taken offset = s.jumpTo (if taken then s.pc + 4#32 + displacement offset else s.pc + 4#32) := by
  rcases branchIf_cases s taken offset with ⟨rfl, hbranch⟩ | ⟨rfl, hbranch⟩
  · rw [hbranch, branchTarget, branchDisplacement_eq_displacement, if_pos rfl]
  · rw [hbranch]; rfl

/-- A word that ends in 00 is a multiple of 4. -/
theorem toNat_append_zero_mod_four {n : Nat} (x : BitVec n) : (x ++ 0#2).toNat % 4 = 0 := by
  simp [BitVec.toNat_append, Nat.shiftLeft_eq]

/-! ### Where each instruction leads -/

theorem exec_beq (rs rt : RegNum) (offset : Imm16) (s : State) :
    exec (.beq rs rt offset) s =
      .next (s.jumpTo (if s.gpr rs = s.gpr rt then s.pc + 4#32 + displacement offset else s.pc + 4#32)) := by
  have hexec : exec (.beq rs rt offset) s = .next (s.branchIf (s.gpr rs == s.gpr rt) offset) := rfl
  simp only [hexec, branchIf_eq_jumpTo, beq_iff_eq]

theorem exec_bne (rs rt : RegNum) (offset : Imm16) (s : State) :
    exec (.bne rs rt offset) s =
      .next (s.jumpTo (if s.gpr rs = s.gpr rt then s.pc + 4#32 else s.pc + 4#32 + displacement offset)) := by
  have hexec : exec (.bne rs rt offset) s = .next (s.branchIf (s.gpr rs != s.gpr rt) offset) := rfl
  simp only [hexec, branchIf_eq_jumpTo, bne_iff_ne, ite_not]

theorem exec_j (target : Target26) (s : State) :
    exec (.j target) s = .next (s.jumpTo (s.pc.extractLsb' 28 4 ++ target ++ 0b00#2)) := rfl

/-- Settles O42: both branches end in `branchIf`, which is a jump to one of the statement's two addresses. -/
theorem beqBneBranch : Obligations.BeqBneBranch := by
  intro s rs rt offset
  refine ⟨?_, ?_, ?_, ?_⟩
  · exact decode_of_eq_encode rfl (OwnRow.beq rs rt offset)
  · exact exec_nothingWritten (exec_beq rs rt offset s)
  · exact decode_of_eq_encode rfl (OwnRow.bne rs rt offset)
  · exact exec_nothingWritten (exec_bne rs rt offset s)

/-- Settles O45: the new pc is the statement's concatenation, whose last two bits are 00. -/
theorem jumpWithinRegion : Obligations.JumpWithinRegion := by
  intro s target
  refine ⟨?_, ?_⟩
  · exact decode_of_eq_encode rfl (OwnRow.j target)
  · obtain ⟨t, hnext, hwritten, hpc⟩ := exec_nothingWritten (exec_j target s)
    have haligned : t.pc.toNat % 4 = 0 := by rw [hpc]; exact toNat_append_zero_mod_four _
    exact ⟨t, hnext, hwritten, hpc, haligned⟩

end Sys2Proof.Machine
end

section
/-! PROOFS. Decoding and encoding are inverse (30_encoding.md sections 1 to 4): each instruction's own row reads its word
back, and a word that matches a row is put together again from its fields. -/

namespace Sys2Proof

open Sys2Proof.Laws

/-! ### From the instruction to the word and back -/

/-- The encoding of every instruction matches its own row of the table, which reads it back. -/
theorem ownRow (i : Instr) : OwnRow.Statement i := by
  cases i with
  | add rd rs rt => exact OwnRow.add rd rs rt
  | addu rd rs rt => exact OwnRow.addu rd rs rt
  | sub rd rs rt => exact OwnRow.sub rd rs rt
  | subu rd rs rt => exact OwnRow.subu rd rs rt
  | mult rs rt => exact OwnRow.mult rs rt
  | multu rs rt => exact OwnRow.multu rs rt
  | div rs rt => exact OwnRow.div rs rt
  | divu rs rt => exact OwnRow.divu rs rt
  | slt rd rs rt => exact OwnRow.slt rd rs rt
  | sltu rd rs rt => exact OwnRow.sltu rd rs rt
  | and rd rs rt => exact OwnRow.and rd rs rt
  | or rd rs rt => exact OwnRow.or rd rs rt
  | nor rd rs rt => exact OwnRow.nor rd rs rt
  | xor rd rs rt => exact OwnRow.xor rd rs rt
  | addi rt rs imm => exact OwnRow.addi rt rs imm
  | addiu rt rs imm => exact OwnRow.addiu rt rs imm
  | slti rt rs imm => exact OwnRow.slti rt rs imm
  | sltiu rt rs imm => exact OwnRow.sltiu rt rs imm
  | andi rt rs imm => exact OwnRow.andi rt rs imm
  | ori rt rs imm => exact OwnRow.ori rt rs imm
  | xori rt rs imm => exact OwnRow.xori rt rs imm
  | lw rt imm rs => exact OwnRow.lw rt imm rs
  | sw rt imm rs => exact OwnRow.sw rt imm rs
  | lbu rt imm rs => exact OwnRow.lbu rt imm rs
  | lb rt imm rs => exact OwnRow.lb rt imm rs
  | sb rt imm rs => exact OwnRow.sb rt imm rs
  | lui rt imm => exact OwnRow.lui rt imm
  | beq rs rt offset => exact OwnRow.beq rs rt offset
  | bne rs rt offset => exact OwnRow.bne rs rt offset
  | blez rs offset => exact OwnRow.blez rs offset
  | bgtz rs offset => exact OwnRow.bgtz rs offset
  | bltz rs offset => exact OwnRow.bltz rs offset
  | j target => exact OwnRow.j target
  | jal target => exact OwnRow.jal target
  | jr rs => exact OwnRow.jr rs
  | jalr rd rs => exact OwnRow.jalr rd rs
  | nop => exact OwnRow.nop
  | mfhi rd => exact OwnRow.mfhi rd
  | mflo rd => exact OwnRow.mflo rd
  | mfepc rt => exact OwnRow.mfepc rt
  | mfco rt => exact OwnRow.mfco rt
  | lwc1 ft imm rs => exact OwnRow.lwc1 ft imm rs
  | swc1 ft imm rs => exact OwnRow.swc1 ft imm rs
  | addS fd fs ft => exact OwnRow.addS fd fs ft
  | addD fd fs ft => exact OwnRow.addD fd fs ft
  | subS fd fs ft => exact OwnRow.subS fd fs ft
  | subD fd fs ft => exact OwnRow.subD fd fs ft
  | mulS fd fs ft => exact OwnRow.mulS fd fs ft
  | mulD fd fs ft => exact OwnRow.mulD fd fs ft
  | divS fd fs ft => exact OwnRow.divS fd fs ft
  | divD fd fs ft => exact OwnRow.divD fd fs ft

/-- Settles O1: the row the decoder finds is the instruction's own. -/
theorem decodeOfEncode : Obligations.DecodeOfEncode :=
  fun i => decode_encode_of_ownRow (ownRow i)

/-! ### A word is the figure of its fields (30_encoding.md R81 to R83) -/

theorem rFigure_fields (w : Word) :
    rFigure (fieldOp w) (fieldRs w) (fieldRt w) (fieldRd w) (fieldSa w) (fieldFunct w) = w := by
  apply BitVec.eq_of_getLsbD_eq; intro k hk
  simp only [rFigure, fieldOp, fieldRs, fieldRt, fieldRd, fieldSa, fieldFunct, BitVec.getLsbD_append,
    BitVec.getLsbD_extractLsb']
  interval_cases k <;> simp

theorem iFigure_fields (w : Word) : iFigure (fieldOp w) (fieldRs w) (fieldRt w) (fieldImm w) = w := by
  apply BitVec.eq_of_getLsbD_eq; intro k hk
  simp only [iFigure, fieldOp, fieldRs, fieldRt, fieldImm, BitVec.getLsbD_append, BitVec.getLsbD_extractLsb']
  interval_cases k <;> simp

theorem jFigure_fields (w : Word) : jFigure (fieldOp w) (fieldTarget w) = w := by
  apply BitVec.eq_of_getLsbD_eq; intro k hk
  simp only [jFigure, fieldOp, fieldTarget, BitVec.getLsbD_append, BitVec.getLsbD_extractLsb']
  interval_cases k <;> simp

theorem rFigure_inj {op op' : BitVec 6} {rs rs' rt rt' rd rd' sa sa' : RegNum} {fn fn' : BitVec 6} :
    rFigure op rs rt rd sa fn = rFigure op' rs' rt' rd' sa' fn' ↔
      op = op' ∧ rs = rs' ∧ rt = rt' ∧ rd = rd' ∧ sa = sa' ∧ fn = fn' := by
  refine ⟨fun h => ⟨?_, ?_, ?_, ?_, ?_, ?_⟩, ?_⟩
  · simpa using congrArg fieldOp h
  · simpa using congrArg fieldRs h
  · simpa using congrArg fieldRt h
  · simpa using congrArg fieldRd h
  · simpa using congrArg fieldSa h
  · simpa using congrArg fieldFunct h
  · rintro ⟨rfl, rfl, rfl, rfl, rfl, rfl⟩; rfl

theorem iFigure_inj {op op' : BitVec 6} {rs rs' rt rt' : RegNum} {imm imm' : Imm16} :
    iFigure op rs rt imm = iFigure op' rs' rt' imm' ↔ op = op' ∧ rs = rs' ∧ rt = rt' ∧ imm = imm' := by
  refine ⟨fun h => ⟨?_, ?_, ?_, ?_⟩, ?_⟩
  · simpa using congrArg fieldOp h
  · simpa using congrArg fieldRs h
  · simpa using congrArg fieldRt h
  · simpa using congrArg fieldImm h
  · rintro ⟨rfl, rfl, rfl, rfl⟩; rfl

theorem jFigure_inj {op op' : BitVec 6} {target target' : Target26} :
    jFigure op target = jFigure op' target' ↔ op = op' ∧ target = target' := by
  refine ⟨fun h => ⟨?_, ?_⟩, ?_⟩
  · simpa using congrArg fieldOp h
  · simpa using congrArg fieldTarget h
  · rintro ⟨rfl, rfl⟩; rfl

/-! ### A word that matches a row, by the row's mask

The fields under the mask are the pattern's, the others are the word's own. -/

section
variable {r : Row} {w : Word}

theorem Row.and_mask_of_hits (h : r.hits w = true) : w &&& r.mask = r.pattern := by
  simpa [Row.hits] using h

theorem eq_of_hits_mask_3 {op : BitVec 6} {sa : RegNum} {fn : BitVec 6} (h : r.hits w = true)
    (hm : r.mask = 0xFC0007FF#32) (hp : r.pattern = rFigure op 0 0 0 sa fn) :
    rFigure op (fieldRs w) (fieldRt w) (fieldRd w) sa fn = w := by
  have hand := Row.and_mask_of_hits h
  rw [hm, hp, ← rFigure_fields w, rFigure_mask_3, rFigure_inj] at hand
  obtain ⟨hop, -, -, -, hsa, hfn⟩ := hand
  rw [← hop, ← hsa, ← hfn, rFigure_fields]

theorem eq_of_hits_mask_2 {op : BitVec 6} {rd sa : RegNum} {fn : BitVec 6} (h : r.hits w = true)
    (hm : r.mask = 0xFC00FFFF#32) (hp : r.pattern = rFigure op 0 0 rd sa fn) :
    rFigure op (fieldRs w) (fieldRt w) rd sa fn = w := by
  have hand := Row.and_mask_of_hits h
  rw [hm, hp, ← rFigure_fields w, rFigure_mask_2, rFigure_inj] at hand
  obtain ⟨hop, -, -, hrd, hsa, hfn⟩ := hand
  rw [← hop, ← hrd, ← hsa, ← hfn, rFigure_fields]

theorem eq_of_hits_mask_rs {op : BitVec 6} {rt rd sa : RegNum} {fn : BitVec 6} (h : r.hits w = true)
    (hm : r.mask = 0xFC1FFFFF#32) (hp : r.pattern = rFigure op 0 rt rd sa fn) :
    rFigure op (fieldRs w) rt rd sa fn = w := by
  have hand := Row.and_mask_of_hits h
  rw [hm, hp, ← rFigure_fields w, rFigure_mask_rs, rFigure_inj] at hand
  obtain ⟨hop, -, hrt, hrd, hsa, hfn⟩ := hand
  rw [← hop, ← hrt, ← hrd, ← hsa, ← hfn, rFigure_fields]

theorem eq_of_hits_mask_rs_rd {op : BitVec 6} {rt sa : RegNum} {fn : BitVec 6} (h : r.hits w = true)
    (hm : r.mask = 0xFC1F07FF#32) (hp : r.pattern = rFigure op 0 rt 0 sa fn) :
    rFigure op (fieldRs w) rt (fieldRd w) sa fn = w := by
  have hand := Row.and_mask_of_hits h
  rw [hm, hp, ← rFigure_fields w, rFigure_mask_rs_rd, rFigure_inj] at hand
  obtain ⟨hop, -, hrt, -, hsa, hfn⟩ := hand
  rw [← hop, ← hrt, ← hsa, ← hfn, rFigure_fields]

theorem eq_of_hits_mask_rd {op : BitVec 6} {rs rt sa : RegNum} {fn : BitVec 6} (h : r.hits w = true)
    (hm : r.mask = 0xFFFF07FF#32) (hp : r.pattern = rFigure op rs rt 0 sa fn) :
    rFigure op rs rt (fieldRd w) sa fn = w := by
  have hand := Row.and_mask_of_hits h
  rw [hm, hp, ← rFigure_fields w, rFigure_mask_rd, rFigure_inj] at hand
  obtain ⟨hop, hrs, hrt, -, hsa, hfn⟩ := hand
  rw [← hop, ← hrs, ← hrt, ← hsa, ← hfn, rFigure_fields]

theorem eq_of_hits_mask_rt {op : BitVec 6} {rs rd sa : RegNum} {fn : BitVec 6} (h : r.hits w = true)
    (hm : r.mask = 0xFFE0FFFF#32) (hp : r.pattern = rFigure op rs 0 rd sa fn) :
    rFigure op rs (fieldRt w) rd sa fn = w := by
  have hand := Row.and_mask_of_hits h
  rw [hm, hp, ← rFigure_fields w, rFigure_mask_rt, rFigure_inj] at hand
  obtain ⟨hop, hrs, -, hrd, hsa, hfn⟩ := hand
  rw [← hop, ← hrs, ← hrd, ← hsa, ← hfn, rFigure_fields]

theorem eq_of_hits_mask_float {op : BitVec 6} {fmt : RegNum} {fn : BitVec 6} (h : r.hits w = true)
    (hm : r.mask = 0xFFE0003F#32) (hp : r.pattern = rFigure op fmt 0 0 0 fn) :
    rFigure op fmt (fieldRt w) (fieldRd w) (fieldSa w) fn = w := by
  have hand := Row.and_mask_of_hits h
  rw [hm, hp, ← rFigure_fields w, rFigure_mask_float, rFigure_inj] at hand
  obtain ⟨hop, hfmt, -, -, -, hfn⟩ := hand
  rw [← hop, ← hfmt, ← hfn, rFigure_fields]

theorem eq_of_hits_mask_op {op : BitVec 6} (h : r.hits w = true)
    (hm : r.mask = 0xFC000000#32) (hp : r.pattern = iFigure op 0 0 0) :
    iFigure op (fieldRs w) (fieldRt w) (fieldImm w) = w := by
  have hand := Row.and_mask_of_hits h
  rw [hm, hp, ← iFigure_fields w, iFigure_mask_2, iFigure_inj] at hand
  obtain ⟨hop, -, -, -⟩ := hand
  rw [← hop, iFigure_fields]

theorem eq_of_hits_mask_op_rt {op : BitVec 6} {rt : RegNum} (h : r.hits w = true)
    (hm : r.mask = 0xFC1F0000#32) (hp : r.pattern = iFigure op 0 rt 0) :
    iFigure op (fieldRs w) rt (fieldImm w) = w := by
  have hand := Row.and_mask_of_hits h
  rw [hm, hp, ← iFigure_fields w, iFigure_mask_rs, iFigure_inj] at hand
  obtain ⟨hop, -, hrt, -⟩ := hand
  rw [← hop, ← hrt, iFigure_fields]

theorem eq_of_hits_mask_op_rs {op : BitVec 6} {rs : RegNum} (h : r.hits w = true)
    (hm : r.mask = 0xFFE00000#32) (hp : r.pattern = iFigure op rs 0 0) :
    iFigure op rs (fieldRt w) (fieldImm w) = w := by
  have hand := Row.and_mask_of_hits h
  rw [hm, hp, ← iFigure_fields w, iFigure_mask_rt, iFigure_inj] at hand
  obtain ⟨hop, hrs, -, -⟩ := hand
  rw [← hop, ← hrs, iFigure_fields]

theorem eq_of_hits_mask_jump {op : BitVec 6} (h : r.hits w = true)
    (hm : r.mask = 0xFC000000#32) (hp : r.pattern = jFigure op 0) :
    jFigure op (fieldTarget w) = w := by
  have hand := Row.and_mask_of_hits h
  rw [hm, hp, ← jFigure_fields w, jFigure_mask, jFigure_inj] at hand
  rw [← hand.1, jFigure_fields]

end

/-! ### The rows of the table encode again what they read -/

/-- A word that matches the row is the encoding of the instruction that the row reads from it. -/
def Row.Reencodes (r : Row) : Prop :=
  ∀ w : Word, r.hits w = true → encode (r.build w) = w

theorem rowsRegister_reencode : ∀ r ∈ rowsRegister, r.Reencodes := by
  simp only [rowsRegister, List.forall_mem_cons]
  refine ⟨?add, ?addu, ?sub, ?subu, ?mult, ?multu, ?div, ?divu, ?slt, ?sltu, ?and, ?or, ?nor, ?xor, List.forall_mem_nil _⟩
  case mult | multu | div | divu => exact fun w h => eq_of_hits_mask_2 h rfl (by decide)
  all_goals exact fun w h => eq_of_hits_mask_3 h rfl (by decide)

theorem rowsImmediate_reencode : ∀ r ∈ rowsImmediate, r.Reencodes := by
  simp only [rowsImmediate, List.forall_mem_cons]
  refine ⟨?addi, ?addiu, ?slti, ?sltiu, ?andi, ?ori, ?xori, List.forall_mem_nil _⟩
  all_goals exact fun w h => eq_of_hits_mask_op h rfl (by decide)

theorem rowsMemory_reencode : ∀ r ∈ rowsMemory, r.Reencodes := by
  simp only [rowsMemory, List.forall_mem_cons]
  refine ⟨?lw, ?sw, ?lbu, ?lb, ?sb, ?lui, List.forall_mem_nil _⟩
  case lui => exact fun w h => eq_of_hits_mask_op_rs h rfl (by decide)
  all_goals exact fun w h => eq_of_hits_mask_op h rfl (by decide)

theorem rowsControl_reencode : ∀ r ∈ rowsControl, r.Reencodes := by
  simp only [rowsControl, List.forall_mem_cons]
  refine ⟨?beq, ?bne, ?blez, ?bgtz, ?bltz, ?j, ?jal, ?jr, ?jalr, List.forall_mem_nil _⟩
  case beq | bne => exact fun w h => eq_of_hits_mask_op h rfl (by decide)
  case blez | bgtz | bltz => exact fun w h => eq_of_hits_mask_op_rt h rfl (by decide)
  case j | jal => exact fun w h => eq_of_hits_mask_jump h rfl (by decide)
  case jr => exact fun w h => eq_of_hits_mask_rs h rfl (by decide)
  case jalr => exact fun w h => eq_of_hits_mask_rs_rd h rfl (by decide)

theorem rowsMoves_reencode : ∀ r ∈ rowsMoves, r.Reencodes := by
  simp only [rowsMoves, List.forall_mem_cons]
  refine ⟨?nop, ?mfhi, ?mflo, ?mfepc, ?mfco, List.forall_mem_nil _⟩
  case nop =>
    intro w h
    have hand : w &&& BitVec.allOnes 32 = 0#32 := Row.and_mask_of_hits h
    rw [BitVec.and_allOnes] at hand
    exact hand.symm
  case mfhi | mflo => exact fun w h => eq_of_hits_mask_rd h rfl (by decide)
  case mfepc | mfco => exact fun w h => eq_of_hits_mask_rt h rfl (by decide)

theorem rowsFloat_reencode : ∀ r ∈ rowsFloat, r.Reencodes := by
  simp only [rowsFloat, List.forall_mem_cons]
  refine ⟨?lwc1, ?swc1, ?addS, ?addD, ?subS, ?subD, ?mulS, ?mulD, ?divS, ?divD, List.forall_mem_nil _⟩
  case lwc1 | swc1 => exact fun w h => eq_of_hits_mask_op h rfl (by decide)
  all_goals exact fun w h => eq_of_hits_mask_float h rfl rfl

theorem opcodeTable_reencode : ∀ r ∈ opcodeTable, r.Reencodes := by
  simp only [opcodeTable, List.forall_mem_append]
  exact ⟨⟨⟨⟨⟨rowsRegister_reencode, rowsImmediate_reencode⟩, rowsMemory_reencode⟩, rowsControl_reencode⟩,
    rowsMoves_reencode⟩, rowsFloat_reencode⟩

/-! ### What the decoder answers -/

/-- A word decodes to `i` exactly where some row matches it and reads `i`. -/
theorem decode_ok_iff {w : Word} {i : Instr} :
    decode w = .ok i ↔ ∃ r ∈ opcodeTable, r.hits w = true ∧ r.build w = i := by
  constructor
  · intro h
    unfold decode at h
    cases hfind : opcodeTable.find? (fun q => q.hits w) with
    | none => simp [hfind] at h
    | some r =>
      have hhits : r.hits w = true := List.find?_some (p := fun q : Row => q.hits w) hfind
      exact ⟨r, List.mem_of_find?_eq_some hfind, hhits, by simpa [hfind] using h⟩
  · rintro ⟨r, hr, hhits, rfl⟩
    exact decode_of_hits hr hhits

/-- A word is rejected exactly where it decodes to no instruction. -/
theorem decode_error_iff {w : Word} : (∃ e, decode w = .error e) ↔ ¬∃ i, decode w = .ok i := by
  cases decode w <;> simp

/-- Settles O2: the row that the decoder found puts the word together again. -/
theorem encodeOfDecode : Obligations.EncodeOfDecode := by
  intro w i h
  obtain ⟨r, hr, hhits, rfl⟩ := decode_ok_iff.mp h
  exact opcodeTable_reencode r hr w hhits

/-- Decoding is the inverse of encoding. -/
theorem decode_eq_ok_iff_encode {w : Word} {i : Instr} : decode w = .ok i ↔ encode i = w :=
  ⟨encodeOfDecode w i, fun h => h ▸ decodeOfEncode i⟩

/-- Settles O3: rows that are apart exclude each other, and the decoder reads a word by the row that matches it. -/
theorem oneRowDecidesEachWord : Obligations.OneRowDecidesEachWord := by
  refine ⟨by decide, ?_, fun w r hr hhits => decode_of_hits hr hhits, ?_⟩
  · exact opcodeTable_pairwise_apart.imp fun hapart w => hapart.not_hits_both w
  · intro w hnone
    rw [decode_error_iff]
    rintro ⟨i, hi⟩
    obtain ⟨r, hr, hhits, -⟩ := decode_ok_iff.mp hi
    simp [hnone r hr] at hhits

end Sys2Proof
end

section
/-! PROOFS. Which words are no instruction (60_exceptions.md R252), and the words that the statements write out. -/

namespace Sys2Proof

open Sys2Proof.Machine

/-- The word of an instruction falls under none of the cases of 60_exceptions.md R252: for each, the fields of the figure are
the encoder's constants. -/
theorem not_noInstruction_encode (i : Instr) : ¬NoInstruction (encode i) := by
  cases i
  all_goals simp [encode, xorFunct, fmtS, fmtD]

/-! ### A word whose constant fields are an instruction's is its encoding -/

theorem iFigure_of_op {w : Word} {k : Nat} (hop : (fieldOp w).toNat = k) :
    iFigure (BitVec.ofNat 6 k) (fieldRs w) (fieldRt w) (fieldImm w) = w := by
  rw [← hop, BitVec.ofNat_toNat, BitVec.setWidth_eq, iFigure_fields]

theorem iFigure_of_op_rt {w : Word} {k : Nat} (hop : (fieldOp w).toNat = k) (hrt : (fieldRt w).toNat = 0) :
    iFigure (BitVec.ofNat 6 k) (fieldRs w) 0#5 (fieldImm w) = w := by
  have hzero : fieldRt w = 0#5 := BitVec.eq_of_toNat_eq hrt
  rw [← hzero, iFigure_of_op hop]

theorem iFigure_of_op_rs {w : Word} {k : Nat} (hop : (fieldOp w).toNat = k) (hrs : (fieldRs w).toNat = 0) :
    iFigure (BitVec.ofNat 6 k) 0#5 (fieldRt w) (fieldImm w) = w := by
  have hzero : fieldRs w = 0#5 := BitVec.eq_of_toNat_eq hrs
  rw [← hzero, iFigure_of_op hop]

theorem jFigure_of_op {w : Word} {k : Nat} (hop : (fieldOp w).toNat = k) :
    jFigure (BitVec.ofNat 6 k) (fieldTarget w) = w := by
  rw [← hop, BitVec.ofNat_toNat, BitVec.setWidth_eq, jFigure_fields]

theorem rFigure_of_op_funct {w : Word} {k n : Nat} (hop : (fieldOp w).toNat = k) (hfn : (fieldFunct w).toNat = n) :
    rFigure (BitVec.ofNat 6 k) (fieldRs w) (fieldRt w) (fieldRd w) (fieldSa w) (BitVec.ofNat 6 n) = w := by
  rw [← hop, ← hfn, BitVec.ofNat_toNat, BitVec.ofNat_toNat, BitVec.setWidth_eq, BitVec.setWidth_eq, rFigure_fields]

/-- Op-code 0: a funct of the map with its constant fields (30_encoding.md R87, R92). -/
theorem exists_encode_of_op_zero {w : Word} (hop : (fieldOp w).toNat = 0) (h : ¬NoInstruction w) :
    ∃ i, encode i = w := by
  simp only [hop, true_and, not_or, not_and, not_not, ne_eq] at h
  obtain ⟨-, ⟨hfn, hsa, hnop, hjr, hjalr, hmove, hmul⟩, -⟩ := h
  have hsa0 : fieldSa w = 0#5 := BitVec.eq_of_toNat_eq hsa
  simp only [List.mem_cons, List.not_mem_nil, or_false] at hfn hmove hmul
  have zero {f : RegNum} (hf : f.toNat = 0) : f = 0#5 := BitVec.eq_of_toNat_eq hf
  rcases hfn with hfn | hfn | hfn | hfn | hfn | hfn | hfn | hfn | hfn | hfn | hfn | hfn | hfn | hfn | hfn | hfn | hfn |
    hfn | hfn
  all_goals
    have hw := rFigure_of_op_funct hop hfn
    rw [hsa0] at hw
  · obtain ⟨hrs, hrt, hrd⟩ := hnop hfn
    rw [zero hrs, zero hrt, zero hrd] at hw
    exact ⟨.nop, hw⟩
  · obtain ⟨hrt, hrd⟩ := hjr hfn
    rw [zero hrt, zero hrd] at hw
    exact ⟨.jr _, hw⟩
  · rw [zero (hjalr hfn)] at hw
    exact ⟨.jalr _ _, hw⟩
  · obtain ⟨hrs, hrt⟩ := hmove (by simp [hfn])
    rw [zero hrs, zero hrt] at hw
    exact ⟨.mfhi _, hw⟩
  · obtain ⟨hrs, hrt⟩ := hmove (by simp [hfn])
    rw [zero hrs, zero hrt] at hw
    exact ⟨.mflo _, hw⟩
  · rw [zero (hmul (by simp [hfn]))] at hw
    exact ⟨.mult _ _, hw⟩
  · rw [zero (hmul (by simp [hfn]))] at hw
    exact ⟨.multu _ _, hw⟩
  · rw [zero (hmul (by simp [hfn]))] at hw
    exact ⟨.div _ _, hw⟩
  · rw [zero (hmul (by simp [hfn]))] at hw
    exact ⟨.divu _ _, hw⟩
  · exact ⟨.add _ _ _, hw⟩
  · exact ⟨.addu _ _ _, hw⟩
  · exact ⟨.sub _ _ _, hw⟩
  · exact ⟨.subu _ _ _, hw⟩
  · exact ⟨.and _ _ _, hw⟩
  · exact ⟨.or _ _ _, hw⟩
  · exact ⟨.nor _ _ _, hw⟩
  · exact ⟨.xor _ _ _, hw⟩
  · exact ⟨.slt _ _ _, hw⟩
  · exact ⟨.sltu _ _ _, hw⟩

/-- Op-code 16: `mfepc` and `mfco` (30_encoding.md R89). -/
theorem exists_encode_of_op_cop0 {w : Word} (hop : (fieldOp w).toNat = 16) (h : ¬NoInstruction w) :
    ∃ i, encode i = w := by
  simp only [hop, true_and, not_or, not_not, ne_eq] at h
  obtain ⟨-, -, -, -, ⟨hrs, hrd, hsa, hfn⟩, -⟩ := h
  have hrs0 : fieldRs w = 0#5 := BitVec.eq_of_toNat_eq hrs
  have hsa0 : fieldSa w = 0#5 := BitVec.eq_of_toNat_eq hsa
  have hw := rFigure_of_op_funct hop hfn
  rw [hrs0, hsa0] at hw
  simp only [List.mem_cons, List.not_mem_nil, or_false] at hrd
  rcases hrd with hrd | hrd
  · have hrd13 : fieldRd w = 13#5 := BitVec.eq_of_toNat_eq hrd
    rw [hrd13] at hw
    exact ⟨.mfco _, hw⟩
  · have hrd14 : fieldRd w = 14#5 := BitVec.eq_of_toNat_eq hrd
    rw [hrd14] at hw
    exact ⟨.mfepc _, hw⟩

/-- Op-code 17: the eight operations (30_encoding.md R90). -/
theorem exists_encode_of_op_cop1 {w : Word} (hop : (fieldOp w).toNat = 17) (h : ¬NoInstruction w) :
    ∃ i, encode i = w := by
  simp only [hop, true_and, not_or, not_not] at h
  obtain ⟨-, -, -, -, -, hfmt, hfn⟩ := h
  simp only [List.mem_cons, List.not_mem_nil, or_false] at hfmt hfn
  rcases hfmt with hfmt | hfmt
  · have hfmtS : fieldRs w = fmtS := BitVec.eq_of_toNat_eq hfmt
    rcases hfn with hfn | hfn | hfn | hfn
    all_goals
      have hw := rFigure_of_op_funct hop hfn
      rw [hfmtS] at hw
    · exact ⟨.addS _ _ _, hw⟩
    · exact ⟨.subS _ _ _, hw⟩
    · exact ⟨.mulS _ _ _, hw⟩
    · exact ⟨.divS _ _ _, hw⟩
  · have hfmtD : fieldRs w = fmtD := BitVec.eq_of_toNat_eq hfmt
    rcases hfn with hfn | hfn | hfn | hfn
    all_goals
      have hw := rFigure_of_op_funct hop hfn
      rw [hfmtD] at hw
    · exact ⟨.addD _ _ _, hw⟩
    · exact ⟨.subD _ _ _, hw⟩
    · exact ⟨.mulD _ _ _, hw⟩
    · exact ⟨.divD _ _ _, hw⟩

/-- A word that falls under none of the cases is the encoding of an instruction: by its op-code (30_encoding.md R86). -/
theorem exists_encode_of_not_noInstruction {w : Word} (h : ¬NoInstruction w) : ∃ i, encode i = w := by
  have hsplit := h
  simp only [not_or, not_and, not_not, ne_eq] at hsplit
  obtain ⟨hop, -, hbranch, hlui, -, -⟩ := hsplit
  simp only [List.mem_cons, List.not_mem_nil, or_false] at hop hbranch
  rcases hop with hop | hop | hop | hop | hop | hop | hop | hop | hop | hop | hop | hop | hop | hop | hop | hop | hop |
    hop | hop | hop | hop | hop | hop | hop | hop
  · exact exists_encode_of_op_zero hop h
  · exact ⟨.bltz _ _, iFigure_of_op_rt hop (hbranch (by simp [hop]))⟩
  · exact ⟨.j _, jFigure_of_op hop⟩
  · exact ⟨.jal _, jFigure_of_op hop⟩
  · exact ⟨.beq _ _ _, iFigure_of_op hop⟩
  · exact ⟨.bne _ _ _, iFigure_of_op hop⟩
  · exact ⟨.blez _ _, iFigure_of_op_rt hop (hbranch (by simp [hop]))⟩
  · exact ⟨.bgtz _ _, iFigure_of_op_rt hop (hbranch (by simp [hop]))⟩
  · exact ⟨.addi _ _ _, iFigure_of_op hop⟩
  · exact ⟨.addiu _ _ _, iFigure_of_op hop⟩
  · exact ⟨.slti _ _ _, iFigure_of_op hop⟩
  · exact ⟨.sltiu _ _ _, iFigure_of_op hop⟩
  · exact ⟨.andi _ _ _, iFigure_of_op hop⟩
  · exact ⟨.ori _ _ _, iFigure_of_op hop⟩
  · exact ⟨.xori _ _ _, iFigure_of_op hop⟩
  · exact ⟨.lui _ _, iFigure_of_op_rs hop (hlui hop)⟩
  · exact exists_encode_of_op_cop0 hop h
  · exact exists_encode_of_op_cop1 hop h
  · exact ⟨.lb _ _ _, iFigure_of_op hop⟩
  · exact ⟨.lw _ _ _, iFigure_of_op hop⟩
  · exact ⟨.lbu _ _ _, iFigure_of_op hop⟩
  · exact ⟨.sb _ _ _, iFigure_of_op hop⟩
  · exact ⟨.sw _ _ _, iFigure_of_op hop⟩
  · exact ⟨.lwc1 _ _ _, iFigure_of_op hop⟩
  · exact ⟨.swc1 _ _ _, iFigure_of_op hop⟩

/-- Settles O4: a word is no instruction exactly where it is not the encoding of one. -/
theorem rejectedWordsByTheirFields : Obligations.RejectedWordsByTheirFields := by
  intro w
  rw [decode_error_iff, ← not_iff_not, not_not]
  constructor
  · rintro ⟨i, hi⟩
    rw [← encodeOfDecode w i hi]
    exact not_noInstruction_encode i
  · intro h
    obtain ⟨i, rfl⟩ := exists_encode_of_not_noInstruction h
    exact ⟨i, decodeOfEncode i⟩

/-! ### Words written out field by field: each is the encoder's word -/

/-- Settles O5: the ten words are closed, and so are their encodings. -/
theorem handEncodedWordsDecode : Obligations.HandEncodedWordsDecode := by
  simp only [Obligations.HandEncodedWordsDecode, decode_eq_ok_iff_encode]
  decide

/-- Settles O59: each word is, field for field, the one the encoder writes. -/
theorem wordsWithSurvivingFigureDecode : Obligations.WordsWithSurvivingFigureDecode := by
  intro rs rt rd imm
  simp only [decode_eq_ok_iff_encode]
  refine ⟨?add, ?sub, ?lw, ?sw, ?lbu, ?lb, ?sb, ?jr, ?jalr, ?lwc1, ?swc1⟩
  all_goals rfl

/-- Settles O60: each word is, field for field, the one the encoder writes. -/
theorem wordsWithLostFigureDecode : Obligations.WordsWithLostFigureDecode := by
  intro rs rt rd fd fs ft imm target
  simp only [decode_eq_ok_iff_encode]
  refine ⟨?mult, ?multu, ?div, ?divu, ?slt, ?and, ?xor, ?addi, ?jal, ?nop, ?mfhi, ?mflo, ?mfepc, ?mfco, ?addS, ?addD,
    ?subS, ?subD, ?mulS, ?mulD, ?divS, ?divD⟩
  all_goals rfl

/-- A word of one of the cases of 60_exceptions.md R252 is rejected. -/
theorem decode_error_of_noInstruction {w : Word} (h : NoInstruction w) : ∃ e, decode w = .error e :=
  (rejectedWordsByTheirFields w).mpr h

end Sys2Proof
end

section
/-! PROOFS. Everything an instruction can answer, once: `Ends` lists the ends, `exec_ends` says there is no other. Every
invariant of the machine is a case split over it. -/

namespace Sys2Proof.Machine

/-! ### Multiples of 4 -/

theorem add_toNat_mod_four {a b : Word} (ha : a.toNat % 4 = 0) (hb : b.toNat % 4 = 0) : (a + b).toNat % 4 = 0 := by
  rw [BitVec.toNat_add]; omega

theorem displacement_toNat_mod_four (offset : Imm16) : (displacement offset).toNat % 4 = 0 :=
  toNat_append_zero_mod_four _

theorem add_four_toNat_mod_four {a : Word} (ha : a.toNat % 4 = 0) : (a + 4#32).toNat % 4 = 0 :=
  add_toNat_mod_four ha (by decide)

/-- Both addresses that a branch can lead to are multiples of 4 where its own is. -/
theorem branch_toNat_mod_four {a : Word} (ha : a.toNat % 4 = 0) (taken : Bool) (offset : Imm16) :
    (if taken then a + 4#32 + displacement offset else a + 4#32).toNat % 4 = 0 := by
  have hnext := add_four_toNat_mod_four ha
  cases taken with
  | false => exact hnext
  | true => exact add_toNat_mod_four hnext (displacement_toNat_mod_four offset)

/-! ### The ends of an instruction -/

/-- The mnemonics that can raise an exception when they execute (60_exceptions.md section 5). -/
def raisers : Exn → List String
  | .illegalOpcode => []
  | .overflow => ["add", "sub", "addi", "add.s", "sub.s", "mul.s", "div.s", "add.d", "sub.d", "mul.d", "div.d"]
  | .illegalMemoryAddress => ["lw", "sw", "lbu", "lb", "sb", "lwc1", "swc1"]
  | .divisionByZero => ["div", "divu", "div.s", "div.d"]

/-- What instruction `i` can answer at `s`: the operation that ends it, and which instructions end so. A jump without a link
is one with the link written to `x[0]`. -/
inductive Ends (i : Instr) (s : State) : Result → Prop
  | gpr (r : RegNum) (v : Word) : Ends i s (.next (s.setGpr r v).advance)
  | hiLo (h l : Word) (hi : ∃ rs rt, i = .mult rs rt ∨ i = .multu rs rt ∨ i = .div rs rt ∨ i = .divu rs rt) :
      Ends i s (.next (s.setHiLo h l).advance)
  | fpr (r : RegNum) (v : Word)
      (hi : (∃ offset rs, i = .lwc1 r offset rs) ∨ ∃ op fs ft, i = singleInstr op r fs ft) :
      Ends i s (.next (s.setFpr r v).advance)
  | drawnFpr (r : RegNum) (v : Word) (hi : ∃ op fs ft, i = singleInstr op r fs ft) :
      Ends i s (.next (s.setFpr r v).countDraw.advance)
  | pair (fd : RegNum) (v : DWord) (hi : ∃ op fs ft, i = doubleInstr op fd fs ft) :
      Ends i s (.next (s.setPair fd v).advance)
  | drawnPair (fd : RegNum) (v : DWord) (hi : ∃ op fs ft, i = doubleInstr op fd fs ft) :
      Ends i s (.next (s.setPair fd v).countDraw.advance)
  | byte (rt : RegNum) (offset : Imm16) (rs : RegNum) (b : Byte) (hi : i = .sb rt offset rs) :
      Ends i s (.next (s.putByte (s.effectiveAddress rs offset) b).advance)
  | word (rt : RegNum) (offset : Imm16) (rs : RegNum) (v : Word) (hi : i = .sw rt offset rs ∨ i = .swc1 rt offset rs) :
      Ends i s (.next (s.putWord (s.effectiveAddress rs offset) v).advance)
  | jump (r : RegNum) (v a : Word) (ha : s.PcAligned → a.toNat % 4 = 0 ∨ ∃ rd rs, i = .jr rs ∨ i = .jalr rd rs) :
      Ends i s (.next ((s.setGpr r v).jumpTo a))
  | raised (e : Exn) (hi : mnemonicOf i ∈ raisers e) : Ends i s (.next (s.raise e))
  | refused (op : FpOperation) (fd fs ft : RegNum) (hi : i = doubleInstr op fd fs ft)
      (hodd : ¬(EvenPair fd ∧ EvenPair fs ∧ EvenPair ft)) : Ends i s (.refused .oddDoubleRegister)

/-! ### The ends of the shared operations -/

section
variable {i : Instr} {s : State}

theorem Ends.of_checked {e : Exn} {r : RegNum} {v : Word} (c : Prop) [Decidable c]
    (hi : mnemonicOf i ∈ raisers e) : Ends i s (if c then .next (s.raise e) else writeGpr r v s) := by
  split
  · exact .raised e hi
  · exact .gpr r v

theorem Ends.of_divide {qr : Word × Word} (c : Prop) [Decidable c] (hi : mnemonicOf i ∈ raisers .divisionByZero)
    (hdiv : ∃ rs rt, i = .mult rs rt ∨ i = .multu rs rt ∨ i = .div rs rt ∨ i = .divu rs rt) :
    Ends i s (if c then .next (s.raise .divisionByZero) else writeQuotient qr s) := by
  split
  · exact .raised .divisionByZero hi
  · exact .hiLo qr.2 qr.1 hdiv

theorem Ends.of_loadByte {rt : RegNum} {a : Word} (f : Byte → Word)
    (hi : mnemonicOf i ∈ raisers .illegalMemoryAddress) : Ends i s (loadGpr rt ((s.readByte .load a).map f) s) := by
  rcases readByte_cases s .load a with ⟨-, hread⟩ | ⟨-, hread⟩ <;> rw [hread]
  · exact .gpr rt _
  · exact .raised .illegalMemoryAddress hi

theorem Ends.of_loadWord {rt : RegNum} {a : Word} (hi : mnemonicOf i ∈ raisers .illegalMemoryAddress) :
    Ends i s (loadGpr rt (s.readWord .load a) s) := by
  rcases readWord_cases s .load a with ⟨-, hread⟩ | ⟨-, hread⟩ <;> rw [hread]
  · exact .gpr rt _
  · exact .raised .illegalMemoryAddress hi

theorem Ends.of_lwc1 (ft : RegNum) (offset : Imm16) (rs : RegNum) (s : State) :
    Ends (.lwc1 ft offset rs) s (execLwc1 ft offset rs s) := by
  unfold execLwc1
  rcases readWord_cases s .load (s.effectiveAddress rs offset) with ⟨-, hread⟩ | ⟨-, hread⟩ <;> rw [hread]
  · exact .fpr ft _ (.inl ⟨offset, rs, rfl⟩)
  · exact .raised .illegalMemoryAddress (by simp [mnemonicOf, raisers])

theorem Ends.of_sb (rt : RegNum) (offset : Imm16) (rs : RegNum) (s : State) :
    Ends (.sb rt offset rs) s (execSb rt offset rs s) := by
  unfold execSb
  rcases writeByte_cases s (s.effectiveAddress rs offset) ((s.gpr rt).extractLsb' 0 8) with ⟨-, hwrite⟩ | ⟨-, hwrite⟩ <;>
    rw [hwrite]
  · exact .byte rt offset rs _ rfl
  · exact .raised .illegalMemoryAddress (by simp [mnemonicOf, raisers])

theorem Ends.of_storeWord {rt : RegNum} {offset : Imm16} {rs : RegNum} {v : Word}
    (hstore : i = .sw rt offset rs ∨ i = .swc1 rt offset rs) :
    Ends i s (finishStore (s.writeWord (s.effectiveAddress rs offset) v) s) := by
  rcases writeWord_cases s (s.effectiveAddress rs offset) v with ⟨-, hwrite⟩ | ⟨-, hwrite⟩ <;> rw [hwrite]
  · exact .word rt offset rs v hstore
  · exact .raised .illegalMemoryAddress (by rcases hstore with rfl | rfl <;> simp [mnemonicOf, raisers])

theorem Ends.of_branch (taken : Bool) (offset : Imm16) : Ends i s (.next (s.branchIf taken offset)) := by
  rw [branchIf_eq_jumpTo]
  exact .jump 0#5 0#32 _ fun hpc => .inl (branch_toNat_mod_four hpc taken offset)

theorem fpRound_ne_divZero (fmt : FpFormat) (n : Bool) (num den : Nat) : fpRound fmt n num den ≠ .divZero := by
  unfold fpRound; dsimp only; split <;> simp

theorem fpAdd_ne_divZero (fmt : FpFormat) (x y : FpDatum) : fpAdd fmt x y ≠ .divZero := by
  fun_cases fpAdd fmt x y <;> simp [fpInfinity, fpZero, fpRound_ne_divZero]

theorem fpMul_ne_divZero (fmt : FpFormat) (x y : FpDatum) : fpMul fmt x y ≠ .divZero := by
  fun_cases fpMul fmt x y <;> simp [fpInfinity, fpZero, fpRound_ne_divZero]

/-- Only a division answers `DivZero`. -/
theorem fpOp_divZero {fmt : FpFormat} {op : FpOperation} {a b : Nat} (h : fpOp fmt op a b = .divZero) : op = .div := by
  cases op with
  | add => exact absurd h (fpAdd_ne_divZero fmt _ _)
  | sub => exact absurd h (fpAdd_ne_divZero fmt _ _)
  | mul => exact absurd h (fpMul_ne_divZero fmt _ _)
  | div => rfl

theorem Ends.of_single (op : FpOperation) (fd fs ft : RegNum) (s : State) :
    Ends (singleInstr op fd fs ft) s (arithSingle op fd fs ft s) := by
  unfold arithSingle
  cases hres : fpOp binary32 op (s.fpr fs).toNat (s.fpr ft).toNat with
  | value n m => exact .fpr fd _ (.inr ⟨op, fs, ft, rfl⟩)
  | nan => exact .drawnFpr fd _ ⟨op, fs, ft, rfl⟩
  | overflow => exact .raised .overflow (by cases op <;> simp [singleInstr, mnemonicOf, raisers])
  | divZero =>
    obtain rfl := fpOp_divZero hres
    exact .raised .divisionByZero (by simp [singleInstr, mnemonicOf, raisers])

theorem Ends.of_double (op : FpOperation) (fd fs ft : RegNum) (s : State) :
    Ends (doubleInstr op fd fs ft) s (arithDouble op fd fs ft s) := by
  rcases arithDouble_cases op fd fs ft s with ⟨hodd, hrefused⟩ | ⟨-, hdeliver⟩
  · rw [hrefused]
    exact .refused op fd fs ft rfl (by rw [← evenTriple_iff, hodd]; decide)
  rw [hdeliver]
  cases hres : fpOp binary64 op (s.pair fs).toNat (s.pair ft).toNat with
  | value n m => exact .pair fd _ ⟨op, fs, ft, rfl⟩
  | nan => exact .drawnPair fd _ ⟨op, fs, ft, rfl⟩
  | overflow => exact .raised .overflow (by cases op <;> simp [doubleInstr, mnemonicOf, raisers])
  | divZero =>
    obtain rfl := fpOp_divZero hres
    exact .raised .divisionByZero (by simp [doubleInstr, mnemonicOf, raisers])

end

/-- Every instruction answers one of the ends. -/
theorem exec_ends (i : Instr) (s : State) : Ends i s (exec i s) := by
  cases i with
  | add rd rs rt => exact .of_checked _ (e := .overflow) (by simp [mnemonicOf, raisers])
  | addu rd rs rt => exact .gpr rd _
  | sub rd rs rt => exact .of_checked _ (e := .overflow) (by simp [mnemonicOf, raisers])
  | subu rd rs rt => exact .gpr rd _
  | mult rs rt => exact .hiLo _ _ ⟨rs, rt, by simp⟩
  | multu rs rt => exact .hiLo _ _ ⟨rs, rt, by simp⟩
  | div rs rt => exact .of_divide _ (by simp [mnemonicOf, raisers]) ⟨rs, rt, by simp⟩
  | divu rs rt => exact .of_divide _ (by simp [mnemonicOf, raisers]) ⟨rs, rt, by simp⟩
  | slt rd rs rt => exact .gpr rd _
  | sltu rd rs rt => exact .gpr rd _
  | and rd rs rt => exact .gpr rd _
  | or rd rs rt => exact .gpr rd _
  | nor rd rs rt => exact .gpr rd _
  | xor rd rs rt => exact .gpr rd _
  | addi rt rs imm => exact .of_checked _ (e := .overflow) (by simp [mnemonicOf, raisers])
  | addiu rt rs imm => exact .gpr rt _
  | slti rt rs imm => exact .gpr rt _
  | sltiu rt rs imm => exact .gpr rt _
  | andi rt rs imm => exact .gpr rt _
  | ori rt rs imm => exact .gpr rt _
  | xori rt rs imm => exact .gpr rt _
  | lw rt offset rs => exact .of_loadWord (by simp [mnemonicOf, raisers])
  | sw rt offset rs => exact .of_storeWord (.inl rfl)
  | lbu rt offset rs => exact .of_loadByte _ (by simp [mnemonicOf, raisers])
  | lb rt offset rs => exact .of_loadByte _ (by simp [mnemonicOf, raisers])
  | sb rt offset rs => exact .of_sb rt offset rs s
  | lui rt imm => exact .gpr rt _
  | beq rs rt offset => exact .of_branch _ offset
  | bne rs rt offset => exact .of_branch _ offset
  | blez rs offset => exact .of_branch _ offset
  | bgtz rs offset => exact .of_branch _ offset
  | bltz rs offset => exact .of_branch _ offset
  | j target => exact .jump 0#5 0#32 _ fun _ => .inl (toNat_append_zero_mod_four _)
  | jal target => exact .jump 31#5 _ _ fun _ => .inl (toNat_append_zero_mod_four _)
  | jr rs => exact .jump 0#5 0#32 _ fun _ => .inr ⟨0, rs, .inl rfl⟩
  | jalr rd rs => exact .jump rd _ _ fun _ => .inr ⟨rd, rs, .inr rfl⟩
  | nop => exact .gpr 0#5 0#32
  | mfhi rd => exact .gpr rd _
  | mflo rd => exact .gpr rd _
  | mfepc rt => exact .gpr rt _
  | mfco rt => exact .gpr rt _
  | lwc1 ft offset rs => exact .of_lwc1 ft offset rs s
  | swc1 ft offset rs => exact .of_storeWord (.inr rfl)
  | addS fd fs ft => exact .of_single .add fd fs ft s
  | addD fd fs ft => exact .of_double .add fd fs ft s
  | subS fd fs ft => exact .of_single .sub fd fs ft s
  | subD fd fs ft => exact .of_double .sub fd fs ft s
  | mulS fd fs ft => exact .of_single .mul fd fs ft s
  | mulD fd fs ft => exact .of_double .mul fd fs ft s
  | divS fd fs ft => exact .of_single .div fd fs ft s
  | divD fd fs ft => exact .of_double .div fd fs ft s

theorem ends_of_exec_eq {i : Instr} {s : State} {r : Result} (h : exec i s = r) : Ends i s r :=
  h ▸ exec_ends i s

end Sys2Proof.Machine
end

section
/-! PROOFS. The step (00_scope.md R10), and what every step of the whole machine keeps. -/

namespace Sys2Proof.Machine

/-! ### One step -/

/-- Settles O6: the fetch gives the word and the decoder the instruction, so the step is `exec` of it. -/
theorem stepRunsDecodedInstruction : Obligations.StepRunsDecodedInstruction := by
  intro s i haccess hdecode
  rw [wordAccess_iff] at haccess
  rw [loadedWord_eq_wordAt] at hdecode
  have hfetch : s.fetchDecode = .ok i := by
    simp [State.fetchDecode, State.fetch, State.readWord, haccess, hdecode]
  simp [step, hfetch]

theorem step_of_illegal_word {s : State} {e : IllegalWord} (haccess : WordAccess s .fetch s.pc)
    (hdecode : decode (loadedWord s s.pc) = .error e) : step s = .next (s.raise .illegalOpcode) := by
  rw [wordAccess_iff] at haccess
  rw [loadedWord_eq_wordAt] at hdecode
  have hfetch : s.fetchDecode = .error .illegalOpcode := by
    simp [State.fetchDecode, State.fetch, State.readWord, haccess, hdecode]
  simp [step, hfetch]

theorem step_of_failed_fetch {s : State} (haccess : ¬WordAccess s .fetch s.pc) :
    step s = .next (s.raise .illegalMemoryAddress) := by
  rw [wordAccess_iff] at haccess
  have hfetch : s.fetchDecode = .error .illegalMemoryAddress := by
    simp [State.fetchDecode, State.fetch, State.readWord, haccess]
  simp [step, hfetch]

/-- A step or an instruction that answers the entry of an exception takes it, with its frame. -/
theorem exceptionTaken_of_eq_raise {r : Result} {s : State} {e : Exn} (h : r = .next (s.raise e)) :
    ∃ t, r = .next t ∧ ExceptionTaken s t (causeCode s.platform e) :=
  ⟨s.raise e, h, exceptionTaken_raise s e⟩

/-- Settles O7: the word fetched is rejected, so the step raises IllegalOpcode. -/
theorem illegalWordTakesCode10 : Obligations.IllegalWordTakesCode10 :=
  fun _ _ haccess hdecode => exceptionTaken_of_eq_raise (step_of_illegal_word haccess hdecode)

/-- Settles O8: the fetch fails before anything is decoded. -/
theorem failedFetchTakesCode4 : Obligations.FailedFetchTakesCode4 :=
  fun _ haccess => exceptionTaken_of_eq_raise (step_of_failed_fetch haccess)

/-- Everything a step can answer: the exception of its fetch, that of its word, or an end of the decoded instruction. -/
theorem step_ends (s : State) :
    step s = .next (s.raise .illegalMemoryAddress) ∨ step s = .next (s.raise .illegalOpcode) ∨
      ∃ i, WordAccess s .fetch s.pc ∧ decode (loadedWord s s.pc) = .ok i ∧ Ends i s (step s) := by
  by_cases haccess : WordAccess s .fetch s.pc
  · right
    cases hdecode : decode (loadedWord s s.pc) with
    | error e => exact .inl (step_of_illegal_word haccess hdecode)
    | ok i =>
      right
      refine ⟨i, haccess, rfl, ?_⟩
      rw [stepRunsDecodedInstruction s i haccess hdecode]
      exact exec_ends i s
  · exact .inl (step_of_failed_fetch haccess)

/-- A step to `t` enters an exception before the instruction runs, or runs the decoded instruction to `t`. -/
theorem ends_of_step_next {s t : State} (h : step s = .next t) :
    t = s.raise .illegalMemoryAddress ∨ t = s.raise .illegalOpcode ∨
      ∃ i, decode (loadedWord s s.pc) = .ok i ∧ Ends i s (.next t) := by
  have hends := step_ends s
  rw [h] at hends
  rcases hends with hfetch | hword | ⟨i, -, hdecode, hends⟩
  · exact .inl (by simpa using hfetch)
  · exact .inr (.inl (by simpa using hword))
  · exact .inr (.inr ⟨i, hdecode, hends⟩)

/-! ### Refusals -/

theorem exec_doubleInstr (op : FpOperation) (fd fs ft : RegNum) (s : State) :
    exec (doubleInstr op fd fs ft) s = arithDouble op fd fs ft s := by
  cases op <;> rfl

theorem exec_singleInstr (op : FpOperation) (fd fs ft : RegNum) (s : State) :
    exec (singleInstr op fd fs ft) s = arithSingle op fd fs ft s := by
  cases op <;> rfl

/-- Settles O58: the check of the three register numbers comes first. -/
theorem oddRegisterPairRefused : Obligations.OddRegisterPairRefused := by
  intro op s fd fs ft hodd
  rw [exec_doubleInstr]
  rcases arithDouble_cases op fd fs ft s with ⟨-, hrefused⟩ | ⟨heven, -⟩
  · exact hrefused
  · exact absurd ((evenTriple_iff fd fs ft).mp heven) hodd

/-- Settles O9: of the ends of an instruction one is a refusal, and none is a fault. -/
theorem stepStopsOnlyAtOddRegisterPair : Obligations.StepStopsOnlyAtOddRegisterPair := by
  intro s
  refine ⟨fun r => r.casesOn, fun r => ⟨fun h => ?_, ?_⟩⟩
  · have hends := step_ends s
    rw [h] at hends
    rcases hends with hfetch | hword | ⟨i, haccess, hdecode, hends⟩
    · cases hfetch
    · cases hword
    · cases hends with
      | refused op fd fs ft hi hodd => exact ⟨rfl, haccess, op, fd, fs, ft, hi ▸ hdecode, hodd⟩
  · rintro ⟨rfl, haccess, op, fd, fs, ft, hdecode, hodd⟩
    rw [stepRunsDecodedInstruction s _ haccess hdecode]
    exact oddRegisterPairRefused op s fd fs ft hodd

/-! ### Invariants -/

theorem Ends.keeps_inv {i : Instr} {s t : State} (h : Ends i s (.next t)) (hs : s.Inv) : t.Inv := by
  obtain ⟨hx, hmem⟩ := hs
  cases h with
  | byte rt offset rs b hi =>
    refine ⟨by simpa using hx, ?_⟩
    rw [State.advance_mem]
    exact State.wf_putByte hmem _ _
  | word rt offset rs v hi =>
    refine ⟨by simpa using hx, ?_⟩
    rw [State.advance_mem]
    exact State.wf_putWord hmem _ _
  | _ => exact ⟨by simpa using hx, by simpa using hmem⟩

/-- Settles O10: no end writes entry 0 of the register file, and the stores keep the canonical form of memory. -/
theorem stepKeepsInvariant : Obligations.StepKeepsInvariant := by
  intro s t hs hstep
  rcases ends_of_step_next hstep with rfl | rfl | ⟨i, -, hends⟩
  · exact hs
  · exact hs
  · exact hends.keeps_inv hs

/-- Settles O11: reset is a literal state with an empty memory. -/
theorem resetMeetsInvariant : Obligations.ResetMeetsInvariant :=
  ⟨⟨rfl, Memory.wf_nil⟩, rfl, rfl⟩

theorem Ends.keeps_platform {i : Instr} {s t : State} (h : Ends i s (.next t)) : SamePlatform s t := by
  cases h <;> simp [SamePlatform]

/-- Settles O12: no end writes the launch's parameters. -/
theorem stepKeepsLaunchParameters : Obligations.StepKeepsLaunchParameters := by
  intro s t hstep
  rcases ends_of_step_next hstep with rfl | rfl | ⟨i, -, hends⟩
  · exact rfl
  · exact rfl
  · exact hends.keeps_platform

/-! ### What can change, and in which step -/

/-- What differs after a step and not by the entry of an exception was written by the decoded instruction. -/
theorem ends_of_step_changes {s t : State} (hstep : step s = .next t) {P : State → Prop}
    (hraise : ∀ e, P (s.raise e)) (hP : ¬P t) : ∃ i, decode (loadedWord s s.pc) = .ok i ∧ Ends i s (.next t) := by
  rcases ends_of_step_next hstep with rfl | rfl | hends
  · exact absurd (hraise _) hP
  · exact absurd (hraise _) hP
  · exact hends

/-- Settles O13: one end writes HI and LO, that of the multiplications and divisions. -/
theorem hiLoChangeOnlyByMultiplyDivide : Obligations.HiLoChangeOnlyByMultiplyDivide := by
  intro s t hstep hchange
  obtain ⟨i, hdecode, hends⟩ := ends_of_step_changes hstep (P := SameHiLo s) (fun e => ⟨rfl, rfl⟩) hchange
  refine ⟨i, hdecode, ?_⟩
  cases hends with
  | hiLo h l hi => exact hi
  | _ => simp [SameHiLo] at hchange

/-- EPC and CAUSE are written by the entry of an exception that the instruction can raise, and by no other end. -/
theorem Ends.raised_or_same {i : Instr} {s t : State} (h : Ends i s (.next t)) :
    (∃ e, mnemonicOf i ∈ raisers e ∧ t = s.raise e) ∨ SameExceptionRegs s t := by
  cases h with
  | raised e hi => exact .inl ⟨e, hi, rfl⟩
  | _ => right; simp [SameExceptionRegs]

/-- Settles O18: the table is `raisers`, which the ends name. -/
theorem executeStageExceptionTable : Obligations.ExecuteStageExceptionTable := by
  intro i s t hexec hchange
  rcases (ends_of_exec_eq hexec).raised_or_same with ⟨e, hi, rfl⟩ | hsame
  · have htaken := exceptionTaken_raise s e
    cases e with
    | illegalOpcode => simp [raisers] at hi
    | overflow => exact .inl ⟨htaken, hi⟩
    | divisionByZero => exact .inr (.inl ⟨htaken, hi⟩)
    | illegalMemoryAddress => exact .inr (.inr ⟨htaken, hi⟩)
  · exact absurd hsame hchange

/-- The entry of any exception has one of the four codes. -/
theorem exceptionTaken_raise_cases (s : State) (e : Exn) :
    ExceptionTaken s (s.raise e) 10#32 ∨ ExceptionTaken s (s.raise e) 12#32 ∨ ExceptionTaken s (s.raise e) 4#32 ∨
      ExceptionTaken s (s.raise e) s.platform.causeDivZero := by
  have htaken := exceptionTaken_raise s e
  cases e with
  | illegalOpcode => exact .inl htaken
  | overflow => exact .inr (.inl htaken)
  | illegalMemoryAddress => exact .inr (.inr (.inl htaken))
  | divisionByZero => exact .inr (.inr (.inr htaken))

/-- Settles O14: a change of EPC or CAUSE is the entry of one of the four exceptions. -/
theorem exceptionRegistersChangeOnlyByEntry : Obligations.ExceptionRegistersChangeOnlyByEntry := by
  intro s t hstep hchange
  rcases ends_of_step_next hstep with rfl | rfl | ⟨i, -, hends⟩
  · exact exceptionTaken_raise_cases s _
  · exact exceptionTaken_raise_cases s _
  · rcases hends.raised_or_same with ⟨e, -, rfl⟩ | hsame
    · exact exceptionTaken_raise_cases s e
    · exact absurd hsame hchange

/-- The register that a write changes is the one written. -/
theorem State.eq_of_fpr_setFpr_ne {s : State} {q r : RegNum} {v : Word} (h : (s.setFpr q v).fpr r ≠ s.fpr r) : r = q := by
  by_contra hne
  simp [State.fpr_setFpr, hne] at h

/-- So it is one of the two of a pair. -/
theorem State.mem_pair_of_fpr_setPair_ne {s : State} {fd r : RegNum} {v : DWord}
    (h : (s.setPair fd v).fpr r ≠ s.fpr r) : r = fd ∨ r = fd + 1#5 := by
  by_contra hne
  obtain ⟨hfirst, hsecond⟩ := not_or.mp hne
  simp [State.fpr_setPair, hfirst, hsecond] at h

/-- Settles O15: four ends write a floating point register, the one that the instruction names. -/
theorem fprChangesOnlyAtItsDestination : Obligations.FprChangesOnlyAtItsDestination := by
  intro s t r hstep hchange
  obtain ⟨i, hdecode, hends⟩ :=
    ends_of_step_changes hstep (P := fun t => t.fpr r = s.fpr r) (fun e => s.fpr_raise e r) hchange
  refine ⟨i, hdecode, ?_⟩
  cases hends with
  | fpr q v hi =>
    rw [State.fpr_advance] at hchange
    rw [State.eq_of_fpr_setFpr_ne hchange]
    exact hi.imp_right .inl
  | drawnFpr q v hi =>
    rw [State.fpr_advance, State.fpr_countDraw] at hchange
    rw [State.eq_of_fpr_setFpr_ne hchange]
    exact .inr (.inl hi)
  | pair fd v hi =>
    rw [State.fpr_advance] at hchange
    obtain ⟨op, fs, ft, hi⟩ := hi
    exact .inr (.inr ⟨op, fd, fs, ft, hi, State.mem_pair_of_fpr_setPair_ne hchange⟩)
  | drawnPair fd v hi =>
    rw [State.fpr_advance, State.fpr_countDraw] at hchange
    obtain ⟨op, fs, ft, hi⟩ := hi
    exact .inr (.inr ⟨op, fd, fs, ft, hi, State.mem_pair_of_fpr_setPair_ne hchange⟩)
  | _ => simp at hchange

/-- A byte that a stored word changes is one of its four. -/
theorem State.exists_offset_of_byteAt_putWord_ne {s : State} {ea v a : Word}
    (h : (s.putWord ea v).byteAt a ≠ s.byteAt a) : ∃ k : Nat, k < 4 ∧ a = ea + BitVec.ofNat 32 k := by
  rw [State.byteAt_putWord] at h
  split_ifs at h with h0 h1 h2 h3
  · exact ⟨0, by decide, by simpa using h0⟩
  · exact ⟨1, by decide, h1⟩
  · exact ⟨2, by decide, h2⟩
  · exact ⟨3, by decide, h3⟩
  · exact absurd rfl h

/-- Settles O16: two ends write memory, at the effective address of the store. -/
theorem memoryChangesOnlyAtStoredBytes : Obligations.MemoryChangesOnlyAtStoredBytes := by
  intro s t a hstep hchange
  obtain ⟨i, hdecode, hends⟩ :=
    ends_of_step_changes hstep (P := fun t => t.byteAt a = s.byteAt a) (fun e => s.byteAt_raise e a) hchange
  cases hends with
  | byte rt offset rs b hi =>
    have ha : a = s.effectiveAddress rs offset := by
      by_contra hne
      simp [hne] at hchange
    exact ⟨i, rt, offset, rs, hdecode, .inl ⟨hi, ha⟩⟩
  | word rt offset rs v hi =>
    rw [State.byteAt_advance] at hchange
    exact ⟨i, rt, offset, rs, hdecode, .inr ⟨hi, State.exists_offset_of_byteAt_putWord_ne hchange⟩⟩
  | _ => simp at hchange

/-- Settles O17: the vector is a multiple of 4, advancing keeps the alignment, and a jump loses it only by a register. -/
theorem pcAlignmentLostOnlyByRegisterJump : Obligations.PcAlignmentLostOnlyByRegisterJump := by
  intro s t hpc hstep hlost
  have hraise (e : Exn) : (s.raise e).PcAligned := by simp [State.PcAligned, excVector]
  have hnext : (s.pc + 4#32).toNat % 4 = 0 := add_four_toNat_mod_four hpc
  obtain ⟨i, hdecode, hends⟩ := ends_of_step_changes hstep (P := State.PcAligned) hraise hlost
  cases hends with
  | jump r v a ha =>
    rcases ha hpc with ha | ⟨rd, rs, hi⟩
    · exact absurd ha hlost
    · exact ⟨i, rd, rs, hdecode, hi⟩
  | raised e hi => exact absurd (hraise e) hlost
  | _ => exact absurd (by simpa [State.PcAligned] using hnext) hlost

/-- Settles O19: the 31 are not among those that raise, and none of them is a double precision operation. -/
theorem unraisingInstructionsComplete : Obligations.UnraisingInstructionsComplete := by
  intro i s hi
  have hends := exec_ends i s
  have hquiet (e : Exn) : mnemonicOf i ∉ raisers e := by
    intro hraises
    cases e with
    | illegalOpcode => simp [raisers] at hraises
    | overflow =>
      simp only [raisers, List.mem_cons, List.not_mem_nil, or_false] at hraises
      rcases hraises with h | h | h | h | h | h | h | h | h | h | h <;> simp [h] at hi
    | illegalMemoryAddress =>
      simp only [raisers, List.mem_cons, List.not_mem_nil, or_false] at hraises
      rcases hraises with h | h | h | h | h | h | h <;> simp [h] at hi
    | divisionByZero =>
      simp only [raisers, List.mem_cons, List.not_mem_nil, or_false] at hraises
      rcases hraises with h | h | h | h <;> simp [h] at hi
  have hsame {t : State} (hends : Ends i s (.next t)) : SameExceptionRegs s t := by
    rcases hends.raised_or_same with ⟨e, hraises, -⟩ | hsame
    · exact absurd hraises (hquiet e)
    · exact hsame
  cases hexec : exec i s with
  | next t => exact ⟨t, rfl, hsame (hexec ▸ hends)⟩
  | fault r => exact nomatch r
  | refused r =>
    rw [hexec] at hends
    cases hends with
    | refused op fd fs ft hdouble hodd =>
      refine absurd ?_ (hquiet .overflow)
      rw [hdouble]
      cases op <;> simp [doubleInstr, mnemonicOf, raisers]

/-- Settles O20: `addu` into register 0 ends in the old state with the pc moved, as a jump to `pc + 4` would. -/
theorem registerZeroIsHardwired : Obligations.RegisterZeroIsHardwired := by
  intro s v rs rt
  refine ⟨s.gpr_zero, s.setGpr_zero v, ?_⟩
  obtain ⟨t, hnext, hwritten, hpc⟩ := exec_nothingWritten (i := .addu 0#5 rs rt) (s := s) (a := s.pc + 4#32) rfl
  exact ⟨t, hnext, hpc, hwritten⟩

/-! ### A run at a vector that cannot be fetched -/

/-- An exception taken at the vector leaves the machine as it was but for EPC and CAUSE, so what is taken after it is taken
from there. -/
theorem ExceptionTaken.of_raise_at_vector {s t : State} {e : Exn} {code : Word} (hpc : s.pc = excVector)
    (h : ExceptionTaken (s.raise e) t code) : ExceptionTaken s t code := by
  obtain ⟨hepc, hrest⟩ := h
  exact ⟨hepc.trans hpc.symm, hrest⟩

/-- Settles O50, by induction on the number of steps: the state after the first step is one at the same vector. -/
theorem unfetchableVectorLoops : Obligations.UnfetchableVectorLoops := by
  intro s hpc hillegal n
  induction n generalizing s with
  | zero =>
    have hstep : step s = .next (s.raise .illegalMemoryAddress) :=
      step_of_failed_fetch (by simp [WordAccess, hpc, hillegal])
    exact ⟨_, by simp [runUntil, hstep], exceptionTaken_raise s .illegalMemoryAddress⟩
  | succ n ih =>
    have hstep : step s = .next (s.raise .illegalMemoryAddress) :=
      step_of_failed_fetch (by simp [WordAccess, hpc, hillegal])
    obtain ⟨t, hrun, htaken⟩ := ih (s.raise .illegalMemoryAddress) rfl hillegal
    refine ⟨t, ?_, htaken.of_raise_at_vector hpc⟩
    rw [runUntil, hstep]
    exact hrun

end Sys2Proof.Machine
end

section
/-! PROOFS. Arithmetic: overflow, multiplication and division (40_arith_register.md R111 to R128; 41_arith_immediate.md
R141). -/

namespace Sys2Proof.Machine

/-! ### Signed words -/

theorem toInt_range (v : Word) : -2147483648 ≤ v.toInt ∧ v.toInt ≤ 2147483647 := by
  have hlo : -2 ^ 31 ≤ v.toInt := v.le_toInt
  have hhi : v.toInt < 2 ^ 31 := v.toInt_lt
  omega

/-- Reduction modulo 2^32 leaves a number in the signed range as it is. -/
theorem bmod_eq_of_in_range {z : Int} (hlo : -2147483648 ≤ z) (hhi : z ≤ 2147483647) : z.bmod (2 ^ 32) = z :=
  Int.bmod_eq_of_le_mul_two (by omega) (by omega)

theorem toInt_ofInt_of_in_range {z : Int} (hlo : -2147483648 ≤ z) (hhi : z ≤ 2147483647) :
    (BitVec.ofInt 32 z).toInt = z := by
  rw [BitVec.toInt_ofInt, bmod_eq_of_in_range hlo hhi]

theorem toInt_sextImm (imm : Imm16) : (sextImm imm).toInt = imm.toInt :=
  BitVec.toInt_signExtend_of_le (by decide)

theorem outOfRange_iff (z : Int) : outOfRange z = true ↔ z < -2147483648 ∨ 2147483647 < z := by
  simp [outOfRange]

theorem outOfRange_eq_false_iff (z : Int) : outOfRange z = false ↔ -2147483648 ≤ z ∧ z ≤ 2147483647 := by
  simp [outOfRange]

/-! ### `add`, `sub` and `addi`: the exact result decides -/

theorem exec_add (rd rs rt : RegNum) (s : State) :
    exec (.add rd rs rt) s =
      if outOfRange ((s.gpr rs).toInt + (s.gpr rt).toInt) then .next (s.raise .overflow)
      else writeGpr rd (s.gpr rs + s.gpr rt) s := rfl

theorem exec_sub (rd rs rt : RegNum) (s : State) :
    exec (.sub rd rs rt) s =
      if outOfRange ((s.gpr rs).toInt - (s.gpr rt).toInt) then .next (s.raise .overflow)
      else writeGpr rd (s.gpr rs - s.gpr rt) s := rfl

theorem exec_addi (rt rs : RegNum) (imm : Imm16) (s : State) :
    exec (.addi rt rs imm) s =
      if outOfRange ((s.gpr rs).toInt + imm.toInt) then .next (s.raise .overflow)
      else writeGpr rt (s.gpr rs + sextImm imm) s := by
  rw [← toInt_sextImm]; rfl

section
variable {i : Instr} {s : State} {r : RegNum} {v : Word} {z : Int}

/-- In range the reduced result is the exact one. -/
theorem exec_checked_in_range (h : exec i s = if outOfRange z then .next (s.raise .overflow) else writeGpr r v s)
    (hv : v.toInt = z.bmod (2 ^ 32)) (hlo : -2147483648 ≤ z) (hhi : z ≤ 2147483647) :
    ∃ t v, exec i s = .next t ∧ t.pc = s.pc + 4#32 ∧ v.toInt = z ∧ GprWritten s t r v := by
  rw [(outOfRange_eq_false_iff z).mpr ⟨hlo, hhi⟩] at h
  obtain ⟨t, hnext, hpc, hwritten⟩ := exec_gprWritten h
  exact ⟨t, v, hnext, hpc, hv.trans (bmod_eq_of_in_range hlo hhi), hwritten⟩

theorem exec_checked_out_of_range (h : exec i s = if outOfRange z then .next (s.raise .overflow) else writeGpr r v s)
    (hz : z < -2147483648 ∨ 2147483647 < z) : ∃ t, exec i s = .next t ∧ ExceptionTaken s t 12#32 := by
  rw [(outOfRange_iff z).mpr hz] at h
  exact exceptionTaken_of_eq_raise h

end

/-- Settles O22: the checked sum and difference are the written words' exact values. -/
theorem addSubAddiExactInRange : Obligations.AddSubAddiExactInRange := by
  rintro s rd rs rt imm z hlo hhi
  refine ⟨?_, ?_, ?_⟩
  · rintro rfl
    exact exec_checked_in_range (exec_add rd rs rt s) (BitVec.toInt_add _ _) hlo hhi
  · rintro rfl
    exact exec_checked_in_range (exec_sub rd rs rt s) BitVec.toInt_sub hlo hhi
  · rintro rfl
    have hsum : (s.gpr rs + sextImm imm).toInt = ((s.gpr rs).toInt + imm.toInt).bmod (2 ^ 32) := by
      rw [BitVec.toInt_add, toInt_sextImm]
    exact exec_checked_in_range (exec_addi rt rs imm s) hsum hlo hhi

/-- Settles O23: the check comes before the write, so the destination does not matter. -/
theorem addSubAddiOverflowTakesCode12 : Obligations.AddSubAddiOverflowTakesCode12 := by
  rintro s rd rs rt imm z hz
  refine ⟨?_, ?_, ?_⟩
  · rintro rfl; exact exec_checked_out_of_range (exec_add rd rs rt s) hz
  · rintro rfl; exact exec_checked_out_of_range (exec_sub rd rs rt s) hz
  · rintro rfl; exact exec_checked_out_of_range (exec_addi rt rs imm s) hz

theorem addOverflows_eq_saddOverflow (a b : Word) : addOverflows a b = BitVec.saddOverflow a b := by
  rw [Bool.eq_iff_iff, addOverflows, outOfRange_iff]
  simp only [BitVec.saddOverflow, Bool.or_eq_true, decide_eq_true_eq]
  omega

theorem subOverflows_eq_ssubOverflow (a b : Word) : subOverflows a b = BitVec.ssubOverflow a b := by
  rw [Bool.eq_iff_iff, subOverflows, outOfRange_iff]
  simp only [BitVec.ssubOverflow, Bool.or_eq_true, decide_eq_true_eq]
  omega

/-- Settles O24: the library's overflow conditions, in terms of the three sign bits. -/
theorem overflowBySignBits : Obligations.OverflowBySignBits := by
  intro a b
  rw [addOverflows_eq_saddOverflow, subOverflows_eq_ssubOverflow, BitVec.saddOverflow_eq, BitVec.ssubOverflow_eq]
  constructor
  · simp
  · cases a.msb <;> cases b.msb <;> simp

/-! ### Multiplication -/

/-- A write to HI and LO, with its frame. -/
theorem hiLoWritten_setHiLo (s : State) (h l : Word) : HiLoWritten s (s.setHiLo h l).advance h l :=
  ⟨rfl, rfl, fun _ => rfl, fun _ => rfl, fun _ => rfl, ⟨rfl, rfl⟩, rfl, rfl⟩

/-- The exact product of two signed words fits in 64 bits. -/
theorem toInt_ofInt_mul (a b : Word) : (BitVec.ofInt 64 (a.toInt * b.toInt)).toInt = a.toInt * b.toInt := by
  obtain ⟨halo, hahi⟩ := toInt_range a
  obtain ⟨hblo, hbhi⟩ := toInt_range b
  have habs : |a.toInt * b.toInt| ≤ 2147483648 * 2147483648 := by
    rw [abs_mul]
    exact mul_le_mul (abs_le.mpr ⟨halo, by omega⟩) (abs_le.mpr ⟨hblo, by omega⟩) (abs_nonneg _) (by decide)
  obtain ⟨hlo, hhi⟩ := abs_le.mp habs
  rw [BitVec.toInt_ofInt]
  exact Int.bmod_eq_of_le_mul_two (by omega) (by omega)

theorem toNat_ofNat_mul (a b : Word) : (BitVec.ofNat 64 (a.toNat * b.toNat)).toNat = a.toNat * b.toNat := by
  have hlt : a.toNat * b.toNat < 2 ^ 32 * 2 ^ 32 := Nat.mul_lt_mul'' a.isLt b.isLt
  rw [BitVec.toNat_ofNat]
  exact Nat.mod_eq_of_lt (hlt.trans_le (by decide))

/-- The low word of a signed product is the product modulo 2^32. -/
theorem low_ofInt_mul (a b : Word) : (BitVec.ofInt 64 (a.toInt * b.toInt)).extractLsb' 0 32 = a * b := by
  have hlow (z : Int) : (BitVec.ofInt 64 z).extractLsb' 0 32 = BitVec.ofInt 32 z := by
    apply BitVec.eq_of_toNat_eq
    simp only [BitVec.extractLsb'_toNat, BitVec.toNat_ofInt, Nat.shiftRight_zero]
    omega
  rw [hlow, BitVec.ofInt_mul, BitVec.ofInt_toInt, BitVec.ofInt_toInt]

/-- The low word of an unsigned product is the product modulo 2^32. -/
theorem low_ofNat_mul (a b : Word) : (BitVec.ofNat 64 (a.toNat * b.toNat)).extractLsb' 0 32 = a * b := by
  rw [← BitVec.setWidth_eq_extractLsb' (by decide), BitVec.setWidth_ofNat_of_le (by decide), BitVec.ofNat_mul,
    BitVec.ofNat_toNat, BitVec.ofNat_toNat, BitVec.setWidth_eq, BitVec.setWidth_eq]

/-- HI and LO after a product, read together, are the product. -/
theorem hi_append_lo_eq (p : DWord) : p.extractLsb' 32 32 ++ p.extractLsb' 0 32 = p :=
  BitVec.extractLsb'_append_extractLsb'

/-- Settles O25: the 64-bit product is exact, and both low words are the product modulo 2^32. -/
theorem multiplyFullProduct : Obligations.MultiplyFullProduct := by
  intro s rs rt
  refine ⟨_, _, rfl, rfl, hiLoWritten_setHiLo s _ _, ?_, rfl, rfl, hiLoWritten_setHiLo s _ _, ?_, ?_⟩
  · rw [State.advance_hi, State.advance_lo, State.setHiLo_hi, State.setHiLo_lo, hi_append_lo_eq]
    exact toInt_ofInt_mul _ _
  · rw [State.advance_hi, State.advance_lo, State.setHiLo_hi, State.setHiLo_lo, hi_append_lo_eq]
    exact toNat_ofNat_mul _ _
  · rw [State.advance_lo, State.advance_lo, State.setHiLo_lo, State.setHiLo_lo, low_ofInt_mul, low_ofNat_mul]

/-! ### Division -/

theorem exec_div_of_ne_zero {s : State} {rt : RegNum} (rs : RegNum) (h : s.gpr rt ≠ 0#32) :
    exec (.div rs rt) s = writeQuotient (divideSigned (s.gpr rs) (s.gpr rt)) s :=
  if_neg h

theorem exec_divu_of_ne_zero {s : State} {rt : RegNum} (rs : RegNum) (h : s.gpr rt ≠ 0#32) :
    exec (.divu rs rt) s = writeQuotient (divideUnsigned (s.gpr rs) (s.gpr rt)) s :=
  if_neg h

/-- The one quotient that does not fit is that of -2^31 by -1 (R128). -/
theorem divideSigned_eq {n d : Word} (h : ¬(n = 0x80000000#32 ∧ d = 0xFFFFFFFF#32)) :
    divideSigned n d = (BitVec.ofInt 32 (n.toInt.tdiv d.toInt), BitVec.ofInt 32 (n.toInt.tmod d.toInt)) := by
  refine if_neg fun hint => h ⟨?_, ?_⟩
  · exact BitVec.eq_of_toInt_eq hint.1
  · exact BitVec.eq_of_toInt_eq hint.2

/-- The quotient rounded toward zero fits, but in that one case. -/
theorem tdiv_in_range {n d : Int} (hlo : -2147483648 ≤ n) (hhi : n ≤ 2147483647) (h : ¬(n = -2147483648 ∧ d = -1)) :
    -2147483648 ≤ n.tdiv d ∧ n.tdiv d ≤ 2147483647 := by
  have habs : (n.tdiv d).natAbs = n.natAbs / d.natAbs := Int.natAbs_tdiv n d
  have hle : n.natAbs / d.natAbs ≤ n.natAbs := Nat.div_le_self _ _
  by_contra hout
  have hquot : n.tdiv d = 2147483648 := by omega
  have hn : n = -2147483648 := by omega
  have hdiv : 2147483648 / d.natAbs = 2147483648 := by
    have hnabs : n.natAbs = 2147483648 := by omega
    rw [← hnabs, ← habs]; omega
  have hd : d.natAbs = 1 := by
    by_contra hd
    rcases Nat.lt_or_gt_of_ne hd with hd | hd
    · have hzero : d.natAbs = 0 := by omega
      simp [hzero] at hdiv
    · exact absurd hdiv (Nat.div_lt_self (by decide) hd).ne
  have hone : d = 1 := by omega
  rw [hone, Int.tdiv_one] at hquot
  omega

/-- The remainder is less than the divisor in magnitude. -/
theorem abs_tmod_lt (n : Int) {d : Int} (hd : d ≠ 0) : |n.tmod d| < |d| := by
  have habs : (n.tmod d).natAbs = n.natAbs % d.natAbs := Int.natAbs_tmod n d
  have hlt : n.natAbs % d.natAbs < d.natAbs := Nat.mod_lt _ (Int.natAbs_pos.mpr hd)
  rw [Int.abs_eq_natAbs, Int.abs_eq_natAbs, habs]
  exact_mod_cast hlt

/-- The remainder is zero or has the dividend's sign. -/
theorem tmod_sign (n d : Int) : n.tmod d = 0 ∨ (n.tmod d < 0 ↔ n < 0) := by
  have hsign := Int.sign_tmod n d
  by_cases hdvd : d ∣ n
  · exact .inl (Int.sign_eq_zero_iff_zero.mp (by simpa [hdvd] using hsign))
  · right
    rw [if_neg hdvd] at hsign
    rw [← Int.sign_eq_neg_one_iff_neg, ← Int.sign_eq_neg_one_iff_neg, hsign]

/-- Settles O28: the divisor is tested first. -/
theorem divideByZeroTraps : Obligations.DivideByZeroTraps := by
  intro s rs rt hzero
  exact ⟨exceptionTaken_of_eq_raise (if_pos hzero), exceptionTaken_of_eq_raise (if_pos hzero)⟩

/-! ### Comparison and logic -/

theorem exec_slt (rd rs rt : RegNum) (s : State) :
    exec (.slt rd rs rt) s = writeGpr rd (if (s.gpr rs).toInt < (s.gpr rt).toInt then 1#32 else 0#32) s := by
  rw [← truthWord_lessSigned]; rfl

theorem exec_and (rd rs rt : RegNum) (s : State) :
    exec (.and rd rs rt) s = writeGpr rd (s.gpr rs &&& s.gpr rt) s := rfl

theorem exec_xor (rd rs rt : RegNum) (s : State) :
    exec (.xor rd rs rt) s = writeGpr rd (s.gpr rs ^^^ s.gpr rt) s := rfl

/-- Settles O30: the written word is the bitwise operation of the whole words, read off bit by bit. -/
theorem sltAndXorResults : Obligations.SltAndXorResults := by
  intro s rd rs rt
  refine ⟨exec_gprWritten (exec_slt rd rs rt s), ?_, ?_⟩
  · obtain ⟨t, hnext, hpc, hwritten⟩ := exec_gprWritten (exec_and rd rs rt s)
    exact ⟨t, _, hnext, hpc, hwritten, fun k => BitVec.getLsbD_and⟩
  · obtain ⟨t, hnext, hpc, hwritten⟩ := exec_gprWritten (exec_xor rd rs rt s)
    exact ⟨t, _, hnext, hpc, hwritten, fun k => BitVec.getLsbD_xor⟩

end Sys2Proof.Machine

/-! ### The laws of division, which bear the names of the model's own operations -/

namespace Sys2Proof

open Sys2Proof.Machine

/-- Settles O26: quotient and remainder fit, so the words are the integers' own. -/
theorem divideSigned : Obligations.DivideSigned := by
  intro s rs rt hzero
  have hexec := exec_div_of_ne_zero rs hzero
  refine ⟨fun hover => ?_, fun hn hd => ?_⟩
  · rw [divideSigned_eq hover] at hexec
    refine ⟨_, hexec, rfl, hiLoWritten_setHiLo s _ _, ?_⟩
    simp only [State.advance_hi, State.advance_lo, State.setHiLo_hi, State.setHiLo_lo]
    obtain ⟨hnlo, hnhi⟩ := toInt_range (s.gpr rs)
    obtain ⟨hdlo, hdhi⟩ := toInt_range (s.gpr rt)
    have hd : (s.gpr rt).toInt ≠ 0 := fun h => hzero (BitVec.eq_of_toInt_eq h)
    have hint : ¬((s.gpr rs).toInt = -2147483648 ∧ (s.gpr rt).toInt = -1) := fun h =>
      hover ⟨BitVec.eq_of_toInt_eq h.1, BitVec.eq_of_toInt_eq h.2⟩
    obtain ⟨hqlo, hqhi⟩ := tdiv_in_range hnlo hnhi hint
    have hrem := abs_tmod_lt (s.gpr rs).toInt hd
    have hbound : |(s.gpr rt).toInt| ≤ 2147483648 := abs_le.mpr ⟨hdlo, by omega⟩
    obtain ⟨hrlo, hrhi⟩ := abs_lt.mp (hrem.trans_le hbound)
    rw [toInt_ofInt_of_in_range hqlo hqhi, toInt_ofInt_of_in_range (by omega) (by omega)]
    exact ⟨(Int.tdiv_mul_add_tmod _ _).symm, hrem, tmod_sign _ _⟩
  · rw [hn, hd] at hexec
    exact ⟨_, hexec, rfl, hiLoWritten_setHiLo s _ _⟩

/-- Settles O27: both words are the natural numbers' own quotient and remainder, which fit. -/
theorem divideUnsigned : Obligations.DivideUnsigned := by
  intro s rs rt hzero
  refine ⟨_, exec_divu_of_ne_zero rs hzero, rfl, hiLoWritten_setHiLo s _ _, ?_⟩
  have hpos : 0 < (s.gpr rt).toNat := Nat.pos_of_ne_zero fun h => hzero (BitVec.eq_of_toNat_eq h)
  have hquot : (s.gpr rs).toNat / (s.gpr rt).toNat < 2 ^ 32 := (Nat.div_le_self _ _).trans_lt (s.gpr rs).isLt
  have hrem : (s.gpr rs).toNat % (s.gpr rt).toNat < (s.gpr rt).toNat := Nat.mod_lt _ hpos
  have hrem32 : (s.gpr rs).toNat % (s.gpr rt).toNat < 2 ^ 32 := hrem.trans (s.gpr rt).isLt
  simp only [State.advance_hi, State.advance_lo, State.setHiLo_hi, State.setHiLo_lo, Machine.divideUnsigned,
    BitVec.toNat_ofNat, Nat.mod_eq_of_lt hquot, Nat.mod_eq_of_lt hrem32]
  exact ⟨(Nat.div_add_mod' _ _).symm, hrem⟩

end Sys2Proof
end

section
/-! PROOFS. Loads, stores and `lui` (42_load_store.md; 46_floating_point.md R221, R222). -/

namespace Sys2Proof.Machine

open Sys2Proof.Laws

/-! ### `lui` -/

theorem exec_lui (rt : RegNum) (imm : Imm16) (s : State) :
    exec (.lui rt imm) s = writeGpr rt (imm ++ 0x0000#16) s := rfl

/-- Settles O34: the word with `rs` 0 is the encoder's, and `rs` not 0 is one of the cases that are no instruction. -/
theorem luiUpperImmediate : Obligations.LuiUpperImmediate := by
  intro s rt imm
  refine ⟨decode_of_eq_encode rfl (OwnRow.lui rt imm), fun rs hrs => ?_, exec_gprWritten (exec_lui rt imm s)⟩
  have hword : NoInstruction (iFigure 0b001111#6 rs rt imm) := by
    have hrs0 : rs.toNat ≠ 0 := fun h => hrs (BitVec.eq_of_toNat_eq h)
    simp [NoInstruction, hrs0]
  exact decode_error_of_noInstruction hword

/-! ### Accesses that pass their checks, and accesses that fail -/

section
variable {s : State} {k : AccessKind} {a : Word}

theorem readWord_of_access (h : WordAccess s k a) : s.readWord k a = .ok (loadedWord s a) := by
  rw [loadedWord_eq_wordAt]; exact if_pos ((wordAccess_iff s k a).mp h)

theorem readWord_of_not_access (h : ¬WordAccess s k a) : s.readWord k a = .error .illegalMemoryAddress :=
  if_neg fun ha => h ((wordAccess_iff s k a).mpr ha)

theorem readByte_of_access (h : ByteAccess s k a) : s.readByte k a = .ok (s.byteAt a) :=
  if_pos ((byteAccess_iff s k a).mp h)

theorem readByte_of_not_access (h : ¬ByteAccess s k a) : s.readByte k a = .error .illegalMemoryAddress :=
  if_neg fun ha => h ((byteAccess_iff s k a).mpr ha)

theorem writeWord_of_access (h : WordAccess s .store a) (v : Word) : s.writeWord a v = .ok (s.putWord a v) :=
  if_pos ((wordAccess_iff s .store a).mp h)

theorem writeWord_of_not_access (h : ¬WordAccess s .store a) (v : Word) :
    s.writeWord a v = .error .illegalMemoryAddress :=
  if_neg fun ha => h ((wordAccess_iff s .store a).mpr ha)

theorem writeByte_of_access (h : ByteAccess s .store a) (b : Byte) : s.writeByte a b = .ok (s.putByte a b) :=
  if_pos ((byteAccess_iff s .store a).mp h)

theorem writeByte_of_not_access (h : ¬ByteAccess s .store a) (b : Byte) :
    s.writeByte a b = .error .illegalMemoryAddress :=
  if_neg fun ha => h ((byteAccess_iff s .store a).mpr ha)

end

/-! ### What each instruction does with its access -/

section
variable (r : RegNum) (offset : Imm16) (rs : RegNum) (s : State)

theorem exec_lw : exec (.lw r offset rs) s = loadGpr r (s.readWord .load (s.effectiveAddress rs offset)) s := rfl

theorem exec_lwc1 : exec (.lwc1 r offset rs) s =
    complete s ((s.readWord .load (s.effectiveAddress rs offset)).map fun v => (s.setFpr r v).advance) := rfl

theorem exec_lbu : exec (.lbu r offset rs) s =
    loadGpr r ((s.readByte .load (s.effectiveAddress rs offset)).map fun b => b.zeroExtend 32) s := rfl

theorem exec_lb : exec (.lb r offset rs) s =
    loadGpr r ((s.readByte .load (s.effectiveAddress rs offset)).map fun b => b.signExtend 32) s := rfl

theorem exec_sw : exec (.sw r offset rs) s =
    finishStore (s.writeWord (s.effectiveAddress rs offset) (s.gpr r)) s := rfl

theorem exec_swc1 : exec (.swc1 r offset rs) s =
    finishStore (s.writeWord (s.effectiveAddress rs offset) (s.fpr r)) s := rfl

theorem exec_sb : exec (.sb r offset rs) s =
    finishStore (s.writeByte (s.effectiveAddress rs offset) ((s.gpr r).extractLsb' 0 8)) s := rfl

end

/-! ### Loads -/

/-- Settles O35: the access passes, so the word read is the statement's. -/
theorem wordLoads : Obligations.WordLoads := by
  rintro s rt offset rs ea rfl haccess
  have hread : s.readWord .load (s.effectiveAddress rs offset) = .ok (loadedWord s (s.effectiveAddress rs offset)) :=
    readWord_of_access haccess
  constructor
  · have hexec := exec_lw rt offset rs s
    rw [hread] at hexec
    exact exec_gprWritten hexec
  · have hexec := exec_lwc1 rt offset rs s
    rw [hread] at hexec
    exact ⟨_, hexec, rfl, fprWritten_setFpr s rt _⟩

/-- Settles O36: the access passes, and both extensions put 24 bits above the byte. -/
theorem byteLoads : Obligations.ByteLoads := by
  rintro s rt offset rs ea rfl haccess
  have hread : s.readByte .load (s.effectiveAddress rs offset) = .ok (s.byteAt (s.effectiveAddress rs offset)) :=
    readByte_of_access haccess
  constructor
  · have hzext (b : Byte) : b.zeroExtend 32 = 0#24 ++ b := BitVec.setWidth_eq_append (by decide)
    have hexec := exec_lbu rt offset rs s
    simp only [hread, Except.map, hzext] at hexec
    exact exec_gprWritten hexec
  · have hsext (b : Byte) : b.signExtend 32 = (if b.getLsbD 7 then 0xFFFFFF#24 else 0x000000#24) ++ b := by
      have hmsb : b.msb = b.getLsbD 7 := rfl
      rw [BitVec.signExtend_eq_append_of_le (by decide), hmsb]
      rfl
    have hexec := exec_lb rt offset rs s
    simp only [hread, Except.map, hsext] at hexec
    exact exec_gprWritten hexec

/-! ### Stores -/

theorem exec_sw_of_access {s : State} {rt : RegNum} {offset : Imm16} {rs : RegNum}
    (h : WordAccess s .store (s.effectiveAddress rs offset)) :
    exec (.sw rt offset rs) s = .next (s.putWord (s.effectiveAddress rs offset) (s.gpr rt)).advance := by
  rw [exec_sw, writeWord_of_access h]; rfl

theorem exec_swc1_of_access {s : State} {ft : RegNum} {offset : Imm16} {rs : RegNum}
    (h : WordAccess s .store (s.effectiveAddress rs offset)) :
    exec (.swc1 ft offset rs) s = .next (s.putWord (s.effectiveAddress rs offset) (s.fpr ft)).advance := by
  rw [exec_swc1, writeWord_of_access h]; rfl

theorem exec_sb_of_access {s : State} {rt : RegNum} {offset : Imm16} {rs : RegNum}
    (h : ByteAccess s .store (s.effectiveAddress rs offset)) :
    exec (.sb rt offset rs) s =
      .next (s.putByte (s.effectiveAddress rs offset) ((s.gpr rt).extractLsb' 0 8)).advance := by
  rw [exec_sb, writeByte_of_access h]; rfl

/-- Settles O37: the access passes, and what a stored word leaves is `memoryWritten_putWord`. -/
theorem wordStores : Obligations.WordStores := by
  intro s rt offset rs haccess
  refine ⟨rfl, ?_, ?_⟩
  · exact ⟨_, exec_sw_of_access haccess, rfl, memoryWritten_putWord s _ _⟩
  · exact ⟨_, exec_swc1_of_access haccess, rfl, memoryWritten_putWord s _ _⟩

/-- Settles O38: the access passes, and what a stored byte leaves is `memoryWritten_putByte`. -/
theorem byteStore : Obligations.ByteStore := by
  intro s rt offset rs haccess
  exact ⟨rfl, _, exec_sb_of_access haccess, rfl, memoryWritten_putByte s _ _⟩

/-! ### Accesses that fail -/

theorem loadGpr_error (rt : RegNum) (e : Exn) (s : State) : loadGpr rt (.error e) s = .next (s.raise e) := rfl

theorem finishStore_error (e : Exn) (s : State) : finishStore (.error e) s = .next (s.raise e) := rfl

/-- An instruction that ends with the error of its access takes code 4. -/
theorem exec_takes_code_4 {i : Instr} {s : State} (h : exec i s = .next (s.raise .illegalMemoryAddress)) :
    ∃ t, exec i s = .next t ∧ ExceptionTaken s t 4#32 :=
  exceptionTaken_of_eq_raise h

/-- Settles O39: each of the seven instructions ends with the error of its access. -/
theorem failedDataAccessTakesCode4 : Obligations.FailedDataAccessTakesCode4 := by
  rintro s r offset rs ea rfl
  refine ⟨?_, ?_, ?_, ?_⟩
  · intro hfail
    have hread : s.readWord .load (s.effectiveAddress rs offset) = .error .illegalMemoryAddress :=
      readWord_of_not_access hfail
    rintro i (rfl | rfl)
    · exact exec_takes_code_4 (by rw [exec_lw, hread, loadGpr_error])
    · exact exec_takes_code_4 (by rw [exec_lwc1, hread]; rfl)
  · intro hfail
    have hwrite (v : Word) : s.writeWord (s.effectiveAddress rs offset) v = .error .illegalMemoryAddress :=
      writeWord_of_not_access hfail v
    rintro i (rfl | rfl)
    · exact exec_takes_code_4 (by rw [exec_sw, hwrite, finishStore_error])
    · exact exec_takes_code_4 (by rw [exec_swc1, hwrite, finishStore_error])
  · intro hfail
    have hread : s.readByte .load (s.effectiveAddress rs offset) = .error .illegalMemoryAddress :=
      readByte_of_not_access hfail
    rintro i (rfl | rfl)
    · exact exec_takes_code_4 (by rw [exec_lb, hread]; rfl)
    · exact exec_takes_code_4 (by rw [exec_lbu, hread]; rfl)
  · intro hfail
    have hwrite (b : Byte) : s.writeByte (s.effectiveAddress rs offset) b = .error .illegalMemoryAddress :=
      writeByte_of_not_access hfail b
    exact exec_takes_code_4 (by rw [exec_sb, hwrite, finishStore_error])

/-! ### A store followed by a load or a fetch -/

/-- Byte `k` of a word that was stored at `a` (20_memory.md R52). -/
theorem State.byteAt_putWord_offset (s : State) (a v : Word) {k : Nat} (hk : k < 4) :
    (s.putWord a v).byteAt (a + BitVec.ofNat 32 k) = byteOfWord s.platform.endian v k := by
  have hne {j : Nat} (hj : j < 4) (h : k ≠ j) : a + BitVec.ofNat 32 k ≠ a + BitVec.ofNat 32 j :=
    add_offset_ne a hk hj h
  have hne0 (h : k ≠ 0) : a + BitVec.ofNat 32 k ≠ a := by
    simpa using hne (j := 0) (by decide) h
  rw [State.byteAt_putWord]
  obtain rfl | rfl | rfl | rfl : k = 0 ∨ k = 1 ∨ k = 2 ∨ k = 3 := by omega
  · rw [if_pos (by simp)]
  · rw [if_neg (hne0 (by decide)), if_pos rfl]
  · rw [if_neg (hne0 (by decide)), if_neg (hne (j := 1) (by decide) (by decide)), if_pos rfl]
  · rw [if_neg (hne0 (by decide)), if_neg (hne (j := 1) (by decide) (by decide)),
      if_neg (hne (j := 2) (by decide) (by decide)), if_pos rfl]

theorem byteOfWord_eq_extractLsb' (e : Endian) (v : Word) (k : Nat) :
    byteOfWord e v k = v.extractLsb' (if e = .big then 24 - 8 * k else 8 * k) 8 := by
  cases e <;> rfl

/-- Settles O40: the byte loaded is byte `k` of the stored word in the launch's order. -/
theorem wordStoreThenByteLoad : Obligations.WordStoreThenByteLoad := by
  intro s rt offset rs haccess
  refine ⟨_, exec_sw_of_access haccess, ?_⟩
  intro rd offset' rb k hrd hk hea hload
  have hexec := exec_lbu rd offset' rb (s.putWord (s.effectiveAddress rs offset) (s.gpr rt)).advance
  rw [readByte_of_access hload, hea, State.byteAt_advance, State.byteAt_putWord_offset _ _ _ hk,
    byteOfWord_eq_extractLsb'] at hexec
  obtain ⟨u, hnext, -, hgpr, -⟩ := exec_gprWritten hexec
  exact ⟨u, hnext, by rw [hgpr rd, if_pos ⟨rfl, hrd⟩]⟩

/-- The word a fetch assembles depends on the bytes and the launch's order only. -/
theorem loadedWord_congr {s t : State} (hmem : SameMemory s t) (hplatform : SamePlatform s t) (a : Word) :
    loadedWord t a = loadedWord s a := by
  simp only [loadedWord, hplatform, hmem _]

/-- A stored word is the word at its address. -/
theorem loadedWord_putWord_advance (s : State) (a v : Word) : loadedWord (s.putWord a v).advance a = v := by
  rw [loadedWord_eq_wordAt, State.wordAt_congr (State.advance_mem _) (State.advance_platform _), State.wordAt_putWord]

/-- Settles O41: the stored word reads back from the same memory, and the step runs what it decodes to. -/
theorem storedWordIsFetched : Obligations.StoredWordIsFetched := by
  intro s rt offset rs i haccess hdecode
  refine ⟨_, exec_sw_of_access haccess, ?_⟩
  intro u hmem hplatform hpc hfetch
  refine stepRunsDecodedInstruction u i hfetch ?_
  rw [loadedWord_congr hmem hplatform, hpc, loadedWord_putWord_advance, hdecode]

end Sys2Proof.Machine
end

section
/-! PROOFS. Sign branches, jumps with a link and by a register, and the moves (43_branch_jump.md R181 to R191; 44_nop_hilo.md;
45_exception_moves.md; 60_exceptions.md R260). -/

namespace Sys2Proof.Machine

open Sys2Proof.Laws

/-! ### Sign branches -/

theorem exec_blez (rs : RegNum) (offset : Imm16) (s : State) :
    exec (.blez rs offset) s =
      .next (s.jumpTo (if (s.gpr rs).toInt ≤ 0 then s.pc + 4#32 + displacement offset else s.pc + 4#32)) := by
  have hexec : exec (.blez rs offset) s = .next (s.branchIf (decide ((s.gpr rs).toInt ≤ 0)) offset) := rfl
  simp only [hexec, branchIf_eq_jumpTo, decide_eq_true_eq]

theorem exec_bgtz (rs : RegNum) (offset : Imm16) (s : State) :
    exec (.bgtz rs offset) s =
      .next (s.jumpTo (if 0 < (s.gpr rs).toInt then s.pc + 4#32 + displacement offset else s.pc + 4#32)) := by
  have hexec : exec (.bgtz rs offset) s = .next (s.branchIf (decide (0 < (s.gpr rs).toInt)) offset) := rfl
  simp only [hexec, branchIf_eq_jumpTo, decide_eq_true_eq]

theorem exec_bltz (rs : RegNum) (offset : Imm16) (s : State) :
    exec (.bltz rs offset) s =
      .next (s.jumpTo (if (s.gpr rs).toInt < 0 then s.pc + 4#32 + displacement offset else s.pc + 4#32)) := by
  have hexec : exec (.bltz rs offset) s = .next (s.branchIf (decide ((s.gpr rs).toInt < 0)) offset) := rfl
  simp only [hexec, branchIf_eq_jumpTo, decide_eq_true_eq]

/-- Settles O43: each branch ends in `branchIf`, and `rt` not 0 is one of the cases that are no instruction. -/
theorem signBranches : Obligations.SignBranches := by
  intro s rs offset
  refine ⟨decode_of_eq_encode rfl (OwnRow.blez rs offset), exec_nothingWritten (exec_blez rs offset s),
    decode_of_eq_encode rfl (OwnRow.bgtz rs offset), exec_nothingWritten (exec_bgtz rs offset s),
    decode_of_eq_encode rfl (OwnRow.bltz rs offset), exec_nothingWritten (exec_bltz rs offset s), ?_⟩
  intro rt hrt op hop
  have hword : NoInstruction (iFigure op rs rt offset) := by
    have hrt0 : rt.toNat ≠ 0 := fun h => hrt (BitVec.eq_of_toNat_eq h)
    rcases hop with rfl | rfl | rfl <;> simp [NoInstruction, hrt0]
  exact decode_error_of_noInstruction hword

/-! ### The target of a branch that is taken (43_branch_jump.md R181) -/

/-- The displacement is 4 times the signed offset. -/
theorem displacement_toInt (offset : Imm16) : (displacement offset).toInt = 4 * offset.toInt := by
  rw [← branchDisplacement_eq_displacement, branchDisplacement, BitVec.toInt_signExtend_of_le (by decide),
    BitVec.toInt_append]
  simp

theorem add_displacement_toNat (a : Word) (offset : Imm16) :
    (((a + 4#32 + displacement offset).toNat : Int) - (a.toNat + 4 + 4 * offset.toInt)) % 2 ^ 32 = 0 := by
  have hdisp := displacement_toInt offset
  have hnat : (displacement offset).toInt % 2 ^ 32 = (displacement offset).toNat % 2 ^ 32 := by
    rw [BitVec.toInt_eq_toNat_bmod]; exact Int.bmod_emod
  rw [hdisp] at hnat
  simp only [BitVec.toNat_add, BitVec.toNat_ofNat]
  omega

/-- A branch that is taken jumps to `pc + 4` and the displacement. -/
theorem exec_taken_branch {i : Instr} {s : State} {rs rt : RegNum} {offset : Imm16}
    (h : (i = .beq rs rt offset ∧ s.gpr rs = s.gpr rt) ∨ (i = .bne rs rt offset ∧ s.gpr rs ≠ s.gpr rt) ∨
      (i = .blez rs offset ∧ (s.gpr rs).toInt ≤ 0) ∨ (i = .bgtz rs offset ∧ 0 < (s.gpr rs).toInt) ∨
      (i = .bltz rs offset ∧ (s.gpr rs).toInt < 0)) :
    exec i s = .next (s.jumpTo (s.pc + 4#32 + displacement offset)) := by
  rcases h with ⟨rfl, hc⟩ | ⟨rfl, hc⟩ | ⟨rfl, hc⟩ | ⟨rfl, hc⟩ | ⟨rfl, hc⟩
  · rw [exec_beq, if_pos hc]
  · rw [exec_bne, if_neg hc]
  · rw [exec_blez, if_pos hc]
  · rw [exec_bgtz, if_pos hc]
  · rw [exec_bltz, if_pos hc]

/-- Settles O44: the target is the same sum for all five, and its clauses are arithmetic on the displacement. -/
theorem takenBranchTarget : Obligations.TakenBranchTarget := by
  intro i s rs rt offset h
  obtain ⟨t, hnext, hwritten, hpc⟩ := exec_nothingWritten (exec_taken_branch h)
  refine ⟨t, hnext, hwritten, ?_, ?_, ?_, ?_⟩
  · rw [hpc]
    exact add_displacement_toNat s.pc offset
  · intro haligned
    rw [State.PcAligned, hpc]
    exact add_toNat_mod_four (add_four_toNat_mod_four haligned) (displacement_toNat_mod_four offset)
  · rintro rfl
    have hback : 4#32 + displacement 0xFFFF#16 = 0#32 := by decide
    rw [hpc, BitVec.add_assoc, hback, BitVec.add_zero]
  · rintro rfl
    have hnone : displacement 0#16 = 0#32 := by decide
    rw [hpc, hnone, BitVec.add_zero]

/-! ### Jumps with a link and by a register -/

/-- A jump keeps what a write to a general register did. -/
theorem gprWritten_setGpr_jumpTo (s : State) (rd : RegNum) (v a : Word) :
    GprWritten s ((s.setGpr rd v).jumpTo a) rd v :=
  gprWritten_setGpr s rd v

/-- Settles O46: the target is computed from the state before the link is written. -/
theorem jumpAndLink : Obligations.JumpAndLink := by
  intro s target rd rs
  exact ⟨⟨_, rfl, gprWritten_setGpr_jumpTo s _ _ _, rfl⟩, ⟨_, rfl, gprWritten_setGpr_jumpTo s _ _ _, rfl⟩⟩

theorem exec_jr (rs : RegNum) (s : State) : exec (.jr rs) s = .next (s.jumpTo (s.gpr rs)) := rfl

/-- Settles O47: the jump is made, and the fetch at a misaligned pc fails. -/
theorem registerJumpThenFetch : Obligations.RegisterJumpThenFetch := by
  intro s rs
  refine ⟨_, exec_jr rs s, nothingWritten_jumpTo s _, rfl, fun hmis => ?_⟩
  obtain ⟨u, hstep, htaken⟩ := failedFetchTakesCode4 (s.jumpTo (s.gpr rs)) fun haccess => hmis haccess.1
  exact ⟨u, hstep, htaken, htaken.1⟩

/-! ### Moves -/

theorem exec_nop (s : State) : exec .nop s = .next (s.jumpTo (s.pc + 4#32)) := rfl

theorem exec_mfhi (r : RegNum) (s : State) : exec (.mfhi r) s = writeGpr r s.hi s := rfl

theorem exec_mflo (r : RegNum) (s : State) : exec (.mflo r) s = writeGpr r s.lo s := rfl

theorem exec_mfepc (r : RegNum) (s : State) : exec (.mfepc r) s = writeGpr r s.epc s := rfl

theorem exec_mfco (r : RegNum) (s : State) : exec (.mfco r) s = writeGpr r s.cause s := rfl

/-- Settles O48: `nop` is a jump to `pc + 4`, and the moves end in `writeGpr`. -/
theorem nopAndMoves : Obligations.NopAndMoves := by
  intro s r
  refine ⟨?_, exec_gprWritten (exec_mfhi r s), exec_gprWritten (exec_mflo r s), exec_gprWritten (exec_mfepc r s),
    exec_gprWritten (exec_mfco r s)⟩
  obtain ⟨t, hnext, hwritten, hpc⟩ := exec_nothingWritten (exec_nop s)
  exact ⟨t, hnext, hpc, hwritten⟩

/-! ### Return from an exception (60_exceptions.md R260) -/

/-- A second write to the same register, and jumps, leave one write. -/
theorem GprWritten.setGpr_advance {s t : State} {r : RegNum} {v : Word} (h : GprWritten s t r v) (w : Word) :
    GprWritten s (t.setGpr r w).advance r w := by
  obtain ⟨hgpr, hfpr, hmem, ⟨hhi, hlo⟩, ⟨hepc, hcause⟩, hplatform, hdraws⟩ := h
  refine ⟨fun q => ?_, fun q => ?_, fun a => ?_, ⟨?_, ?_⟩, ⟨?_, ?_⟩, ?_, ?_⟩
  · rw [State.gpr_advance, State.gpr_setGpr, hgpr q]
    split_ifs <;> rfl
  · simpa using hfpr q
  · simpa using hmem a
  · simpa using hhi
  · simpa using hlo
  · simpa using hepc
  · simpa using hcause
  · simpa [SamePlatform] using hplatform
  · simpa using hdraws

theorem GprWritten.jumpTo {s t : State} {r : RegNum} {v : Word} (h : GprWritten s t r v) (a : Word) :
    GprWritten s (t.jumpTo a) r v :=
  h

/-- Settles O49: after the moves the register holds the address that `jr` then copies to the pc. -/
theorem returnFromException : Obligations.ReturnFromException := by
  intro s k hk
  obtain ⟨t1, hmfepc, -, hwritten1⟩ := exec_gprWritten (exec_mfepc k s)
  have hk1 : t1.gpr k = s.epc := by rw [hwritten1.1 k, if_pos ⟨rfl, hk⟩]
  have haddiu : exec (.addiu k k 4#16) t1 = .next (t1.setGpr k (s.epc + 4#32)).advance := by
    rw [exec_addiu, hk1]; rfl
  have hwritten2 : GprWritten s (t1.setGpr k (s.epc + 4#32)).advance k (s.epc + 4#32) := hwritten1.setGpr_advance _
  have hk2 : (t1.setGpr k (s.epc + 4#32)).advance.gpr k = s.epc + 4#32 := by rw [hwritten2.1 k, if_pos ⟨rfl, hk⟩]
  exact ⟨t1, _, _, _, hmfepc, haddiu, exec_jr k _, hk2, hwritten2.jumpTo _, exec_jr k t1, hk1, hwritten1.jumpTo _⟩

end Sys2Proof.Machine
end

section
/-! PROOFS. Rounding (46_floating_point.md R231, R232, R234), in units: the numbers of a format are the values of `unitsOf`,
and `fpRound` chooses the one nearest to its fraction, a tie to the even pattern. One text for both formats. -/

namespace Sys2Proof.Machine

/-! ### The numbers of a format -/

/-- The units that a pattern without its sign bit stands for, `p` being the width of its fraction field (R231). -/
def unitsOf (p m : Nat) : Nat :=
  if m / 2 ^ p = 0 then m % 2 ^ p else (2 ^ p + m % 2 ^ p) * 2 ^ (m / 2 ^ p - 1)

theorem unitsOf_of_fields {p e f : Nat} (hf : f < 2 ^ p) :
    unitsOf p (e * 2 ^ p + f) = if e = 0 then f else (2 ^ p + f) * 2 ^ (e - 1) := by
  have hquot : (e * 2 ^ p + f) / 2 ^ p = e := by
    rw [Nat.add_comm, Nat.add_mul_div_right _ _ (Nat.two_pow_pos p), Nat.div_eq_of_lt hf, Nat.zero_add]
  have hrem : (e * 2 ^ p + f) % 2 ^ p = f := by rw [Nat.mul_add_mod', Nat.mod_eq_of_lt hf]
  rw [unitsOf, hquot, hrem]

theorem unitsOf_zero (p : Nat) : unitsOf p 0 = 0 := by simp [unitsOf]

/-- A pattern counted from the start of a binade of spacing `2^t`; `n = 2^(p+1)` is the start of the next binade. -/
theorem unitsOf_spacing {p t n : Nat} (hn : n ≤ 2 ^ (p + 1)) (ht : t = 0 ∨ 2 ^ p ≤ n) :
    unitsOf p (t * 2 ^ p + n) = n * 2 ^ t := by
  have hpos : 0 < 2 ^ p := Nat.two_pow_pos p
  have hdouble : 2 ^ (p + 1) = 2 ^ p + 2 ^ p := by rw [pow_succ]; omega
  by_cases hsub : n < 2 ^ p
  · obtain rfl : t = 0 := ht.resolve_right (by omega)
    rw [unitsOf_of_fields hsub, if_pos rfl, pow_zero, Nat.mul_one]
  by_cases hnext : n = 2 ^ (p + 1)
  · have hfields : t * 2 ^ p + n = (t + 2) * 2 ^ p + 0 := by rw [hnext, hdouble]; ring
    rw [hfields, unitsOf_of_fields hpos, if_neg (by omega), hnext, Nat.add_sub_assoc (by decide)]
    ring
  · have hfields : t * 2 ^ p + n = (t + 1) * 2 ^ p + (n - 2 ^ p) := by rw [Nat.add_mul]; omega
    rw [hfields, unitsOf_of_fields (by omega), if_neg (by omega), Nat.add_sub_cancel,
      Nat.add_sub_cancel' (Nat.le_of_not_lt hsub)]

/-- Every pattern is counted so from the start of its own binade. -/
theorem exists_spacing (p m : Nat) : ∃ t n, m = t * 2 ^ p + n ∧ n < 2 ^ (p + 1) ∧ (t = 0 ∨ 2 ^ p ≤ n) := by
  have hdouble : 2 ^ (p + 1) = 2 ^ p + 2 ^ p := by rw [pow_succ]; omega
  have hsplit : m / 2 ^ p * 2 ^ p + m % 2 ^ p = m := Nat.div_add_mod' m (2 ^ p)
  have hrem : m % 2 ^ p < 2 ^ p := Nat.mod_lt _ (Nat.two_pow_pos p)
  rcases Nat.eq_zero_or_pos (m / 2 ^ p) with he | he
  · rw [he] at hsplit
    exact ⟨0, m % 2 ^ p, hsplit.symm, by omega, .inl rfl⟩
  · obtain ⟨t, ht⟩ := Nat.exists_eq_add_of_lt he
    rw [ht, show 0 + t + 1 = t + 1 by omega, Nat.add_mul] at hsplit
    exact ⟨t, 2 ^ p + m % 2 ^ p, by omega, by omega, .inr (by omega)⟩

/-- A greater pattern stands for more units. -/
theorem unitsOf_strictMono (p : Nat) : StrictMono (unitsOf p) := by
  refine strictMono_nat_of_lt_succ fun m => ?_
  obtain ⟨t, n, rfl, hn, ht⟩ := exists_spacing p m
  rw [Nat.add_assoc, unitsOf_spacing hn.le ht, unitsOf_spacing hn (ht.imp_right fun h => by omega)]
  exact Nat.mul_lt_mul_of_pos_right (Nat.lt_succ_self n) (Nat.two_pow_pos t)

theorem unitsOf_eq_zero_iff {p m : Nat} : unitsOf p m = 0 ↔ m = 0 := by
  conv_lhs => rw [← unitsOf_zero p]
  exact (unitsOf_strictMono p).injective.eq_iff

/-- The numbers that are no whole number of spacings `2^t` lie below the binade of that spacing. -/
theorem exists_mul_or_unitsOf_lt (p m t : Nat) : (∃ k, unitsOf p m = k * 2 ^ t) ∨ unitsOf p m < 2 ^ p * 2 ^ t := by
  obtain ⟨u, n, rfl, hn, hu⟩ := exists_spacing p m
  rw [unitsOf_spacing hn.le hu]
  rcases Nat.le_total t u with htu | hut
  · left
    exact ⟨n * 2 ^ (u - t), by rw [Nat.mul_assoc, ← pow_add, Nat.sub_add_cancel htu]⟩
  · rcases Nat.eq_or_lt_of_le hut with rfl | hlt
    · exact .inl ⟨n, rfl⟩
    right
    calc n * 2 ^ u < 2 ^ (p + 1) * 2 ^ u := Nat.mul_lt_mul_of_pos_right hn (Nat.two_pow_pos u)
      _ = 2 ^ p * 2 ^ (u + 1) := by ring
      _ ≤ 2 ^ p * 2 ^ t := Nat.mul_le_mul_left _ (Nat.pow_le_pow_right (by decide) hlt)

/-! ### The nearest whole number -/

/-- The rounded quotient is at most one half away, and even where it is one half away. -/
theorem roundHalfEven_spec (num : Nat) {den : Nat} (hden : 0 < den) :
    2 * num ≤ (2 * roundHalfEven num den + 1) * den ∧ 2 * roundHalfEven num den * den ≤ 2 * num + den ∧
      (2 * num = (2 * roundHalfEven num den + 1) * den ∨ 2 * roundHalfEven num den * den = 2 * num + den →
        roundHalfEven num den % 2 = 0) := by
  have hsplit : den * (num / den) + num % den = num := Nat.div_add_mod num den
  have hrem : num % den < den := Nat.mod_lt _ hden
  have hup : (2 * (num / den + 1) + 1) * den = 2 * (den * (num / den)) + 3 * den := by ring
  have hup' : 2 * (num / den + 1) * den = 2 * (den * (num / den)) + 2 * den := by ring
  have hdown : (2 * (num / den) + 1) * den = 2 * (den * (num / den)) + den := by ring
  have hdown' : 2 * (num / den) * den = 2 * (den * (num / den)) := by ring
  simp only [roundHalfEven]
  split_ifs
  · rw [hdown, hdown']; omega
  · rw [hup, hup']; omega
  · rw [hdown, hdown']; omega
  · rw [hup, hup']; omega

/-- The same over the rationals. -/
theorem abs_roundHalfEven_sub_le (num : Nat) {den : Nat} (hden : 0 < den) :
    |(roundHalfEven num den : ℚ) - num / den| ≤ 1 / 2 ∧
      (|(roundHalfEven num den : ℚ) - num / den| = 1 / 2 → roundHalfEven num den % 2 = 0) := by
  obtain ⟨hle, hge, htie⟩ := roundHalfEven_spec num hden
  generalize roundHalfEven num den = n at hle hge htie
  have hdenQ : (0 : ℚ) < den := by exact_mod_cast hden
  have hleQ : (2 * num : ℚ) ≤ (2 * n + 1) * den := by exact_mod_cast hle
  have hgeQ : (2 * n * den : ℚ) ≤ 2 * num + den := by exact_mod_cast hge
  have hscaled : (num : ℚ) / den * den = num := div_mul_cancel₀ _ hdenQ.ne'
  generalize (num : ℚ) / den = y at hscaled
  constructor
  · rw [abs_le]
    constructor <;> nlinarith
  · intro h
    apply htie
    rcases (abs_eq (by norm_num)).mp h with h | h
    · right
      have hQ : (2 * n * den : ℚ) = 2 * num + den := by rw [← hscaled]; linear_combination 2 * den * h
      exact_mod_cast hQ
    · left
      have hQ : (2 * num : ℚ) = (2 * n + 1) * den := by rw [← hscaled]; linear_combination -2 * den * h
      exact_mod_cast hQ

/-- No whole number is nearer to `y` than one at most one half away, and an equally near one is one half away too. -/
theorem abs_sub_le_of_le_half {n k : Int} {y : ℚ} (h : |(n : ℚ) - y| ≤ 1 / 2) :
    |(n : ℚ) - y| ≤ |(k : ℚ) - y| ∧ (k ≠ n → |(k : ℚ) - y| = |(n : ℚ) - y| → |(n : ℚ) - y| = 1 / 2) := by
  by_cases hk : k = n
  · subst hk
    exact ⟨le_rfl, fun hne => absurd rfl hne⟩
  have hone : (1 : ℚ) ≤ |(k : ℚ) - n| := by exact_mod_cast Int.one_le_abs (sub_ne_zero.mpr hk)
  have htri : |(k : ℚ) - n| ≤ |(k : ℚ) - y| + |(n : ℚ) - y| := by
    rw [abs_sub_comm (n : ℚ) y]; exact abs_sub_le _ _ _
  exact ⟨by linarith, fun _ heq => by linarith⟩

/-! ### The nearest number of the format -/

/-- `m` is the pattern nearest to `x` units, a tie going to the even pattern. -/
def Rounded (p m : Nat) (x : ℚ) : Prop :=
  (∀ c, |(unitsOf p m : ℚ) - x| ≤ |(unitsOf p c : ℚ) - x|) ∧
    ∀ c, unitsOf p c ≠ unitsOf p m → |(unitsOf p c : ℚ) - x| = |(unitsOf p m : ℚ) - x| → m % 2 = 0

theorem rounded_zero (p : Nat) : Rounded p 0 0 := by
  constructor
  · intro c; simp [unitsOf_zero]
  · intro c _ _; rfl

/-- The pattern of `fpRound`: with the spacing `2^t`, the rounded number of spacings. -/
def roundedPattern (p num den : Nat) : Nat :=
  (Nat.log2 (num / den) - p) * 2 ^ p + roundHalfEven num (den * 2 ^ (Nat.log2 (num / den) - p))

theorem fpRound_eq (fmt : FpFormat) (negative : Bool) (num den : Nat) :
    fpRound fmt negative num den =
      if maxExponent fmt * 2 ^ fmt.fracBits ≤ roundedPattern fmt.fracBits num den then .overflow
      else .value negative (roundedPattern fmt.fracBits num den) := rfl

section
variable {p num den t : Nat}

/-- The fraction lies below the end of its binade. -/
theorem lt_of_log2_sub (hden : 0 < den) (ht : t = Nat.log2 (num / den) - p) : num < 2 ^ (p + 1) * (den * 2 ^ t) := by
  have hlt : num / den < 2 ^ (Nat.log2 (num / den) + 1) := Nat.lt_log2_self
  have hle : 2 ^ (Nat.log2 (num / den) + 1) ≤ 2 ^ (p + 1 + t) := Nat.pow_le_pow_right (by decide) (by omega)
  have hnum : num < 2 ^ (p + 1 + t) * den := (Nat.div_lt_iff_lt_mul hden).mp (hlt.trans_le hle)
  calc num < 2 ^ (p + 1 + t) * den := hnum
    _ = 2 ^ (p + 1) * (den * 2 ^ t) := by rw [pow_add]; ring

/-- Above the smallest binade the fraction reaches the start of its binade. -/
theorem le_of_log2_sub (hden : 0 < den) (ht : t = Nat.log2 (num / den) - p) (hpos : t ≠ 0) :
    2 ^ p * (den * 2 ^ t) ≤ num := by
  have hne : num / den ≠ 0 := by
    intro hzero
    rw [hzero, Nat.log2_zero] at ht
    omega
  have hlog : Nat.log2 (num / den) = p + t := by omega
  have hle : 2 ^ Nat.log2 (num / den) ≤ num / den := Nat.log2_self_le hne
  rw [hlog] at hle
  calc 2 ^ p * (den * 2 ^ t) = 2 ^ (p + t) * den := by rw [pow_add]; ring
    _ ≤ num := (Nat.le_div_iff_mul_le hden).mp hle

/-- The rounded number of spacings lies in its binade, or is the start of the next. -/
theorem roundHalfEven_in_binade (hden : 0 < den) (ht : t = Nat.log2 (num / den) - p) :
    roundHalfEven num (den * 2 ^ t) ≤ 2 ^ (p + 1) ∧ (t = 0 ∨ 2 ^ p ≤ roundHalfEven num (den * 2 ^ t)) := by
  have hscale : 0 < den * 2 ^ t := Nat.mul_pos hden (Nat.two_pow_pos t)
  obtain ⟨hle, hge, -⟩ := roundHalfEven_spec num hscale
  have hlt := lt_of_log2_sub hden ht
  have hstart := le_of_log2_sub hden ht
  generalize roundHalfEven num (den * 2 ^ t) = n at hle hge ⊢
  generalize den * 2 ^ t = d at hscale hle hge hlt hstart
  constructor
  · by_contra hgt
    have hmul : (2 ^ (p + 1) + 1) * d ≤ n * d := Nat.mul_le_mul_right d (by omega)
    rw [Nat.add_mul] at hmul
    rw [Nat.mul_assoc] at hge
    omega
  · refine or_iff_not_imp_left.mpr fun hpos => ?_
    by_contra hgt
    have hmul : (n + 1) * d ≤ 2 ^ p * d := Nat.mul_le_mul_right d (by omega)
    have hnum := hstart hpos
    rw [Nat.add_mul] at hmul
    rw [Nat.add_mul, Nat.mul_assoc] at hle
    omega

/-- The rounded number of spacings is nearest to the fraction among the whole numbers of spacings. -/
theorem abs_spacings_sub_le (hden : 0 < den) (t k : Nat) :
    |((roundHalfEven num (den * 2 ^ t) * 2 ^ t : Nat) : ℚ) - num / den| ≤ |((k * 2 ^ t : Nat) : ℚ) - num / den| ∧
      (k ≠ roundHalfEven num (den * 2 ^ t) →
        |((k * 2 ^ t : Nat) : ℚ) - num / den| = |((roundHalfEven num (den * 2 ^ t) * 2 ^ t : Nat) : ℚ) - num / den| →
        roundHalfEven num (den * 2 ^ t) % 2 = 0) := by
  obtain ⟨hhalf, heven⟩ := abs_roundHalfEven_sub_le num (Nat.mul_pos hden (Nat.two_pow_pos t))
  generalize roundHalfEven num (den * 2 ^ t) = n at hhalf heven ⊢
  obtain ⟨hnear, htie⟩ := abs_sub_le_of_le_half (n := n) (k := k) (by exact_mod_cast hhalf)
  have hpow : (0 : ℚ) < 2 ^ t := by positivity
  have hdenQ : (den : ℚ) ≠ 0 := by exact_mod_cast hden.ne'
  have hscale (j : Nat) : |((j * 2 ^ t : Nat) : ℚ) - num / den| = |(j : ℚ) - num / (den * 2 ^ t : Nat)| * 2 ^ t := by
    have hfactor : ((j * 2 ^ t : Nat) : ℚ) - num / den = ((j : ℚ) - num / (den * 2 ^ t : Nat)) * 2 ^ t := by
      push_cast
      field_simp
    rw [hfactor, abs_mul, abs_of_pos hpow]
  rw [hscale, hscale]
  constructor
  · exact mul_le_mul_of_nonneg_right (by exact_mod_cast hnear) hpow.le
  · intro hne heq
    exact heven (by exact_mod_cast htie (by exact_mod_cast hne) (by exact_mod_cast mul_right_cancel₀ hpow.ne' heq))

/-- The pattern of `fpRound` is the one nearest to the fraction (R232). -/
theorem rounded_roundedPattern (hp : p ≠ 0) (num : Nat) (hden : 0 < den) :
    Rounded p (roundedPattern p num den) ((num : ℚ) / den) := by
  obtain ⟨t, ht⟩ : ∃ t, t = Nat.log2 (num / den) - p := ⟨_, rfl⟩
  obtain ⟨hn, hstart⟩ := roundHalfEven_in_binade hden ht
  have hspacings := abs_spacings_sub_le (num := num) hden t
  have hbelow := le_of_log2_sub hden ht
  rw [roundedPattern, ← ht]
  generalize roundHalfEven num (den * 2 ^ t) = n at hn hstart hspacings ⊢
  have hunits := unitsOf_spacing hn hstart
  have hcase (c : Nat) : (∃ k, unitsOf p c = k * 2 ^ t) ∨
      |((n * 2 ^ t : Nat) : ℚ) - num / den| < |(unitsOf p c : ℚ) - num / den| := by
    by_cases hpos : t = 0
    · exact .inl ⟨unitsOf p c, by rw [hpos, pow_zero, Nat.mul_one]⟩
    refine (exists_mul_or_unitsOf_lt p c t).imp_right fun hlt => ?_
    have hltQ : (unitsOf p c : ℚ) < (2 ^ p * 2 ^ t : Nat) := by exact_mod_cast hlt
    have hstartQ : ((2 ^ p * 2 ^ t : Nat) : ℚ) ≤ num / den := by
      rw [le_div_iff₀ (by exact_mod_cast hden)]
      have hnat : 2 ^ p * 2 ^ t * den ≤ num := by linarith [hbelow hpos]
      exact_mod_cast hnat
    calc |((n * 2 ^ t : Nat) : ℚ) - num / den| ≤ |((2 ^ p * 2 ^ t : Nat) : ℚ) - num / den| := (hspacings (2 ^ p)).1
      _ = num / den - (2 ^ p * 2 ^ t : Nat) := by rw [abs_sub_comm, abs_of_nonneg (by linarith)]
      _ < num / den - unitsOf p c := by linarith
      _ ≤ |(unitsOf p c : ℚ) - num / den| := by rw [abs_sub_comm]; exact le_abs_self _
  constructor
  · intro c
    rw [hunits]
    rcases hcase c with ⟨k, hk⟩ | hfar
    · rw [hk]; exact (hspacings k).1
    · exact hfar.le
  · intro c hne heq
    rw [hunits] at hne heq
    rcases hcase c with ⟨k, hk⟩ | hfar
    · rw [hk] at hne heq
      have heven : n % 2 = 0 := (hspacings k).2 (fun h => hne (by rw [h])) heq
      have hpow : 2 ^ p % 2 = 0 := by simp [Nat.pow_mod, hp]
      rw [Nat.add_mod, Nat.mul_mod, hpow, heven, Nat.mul_zero, Nat.zero_mod]
    · exact absurd heq hfar.ne'

end

/-! ### Where rounding reaches a pattern -/

/-- The nearest pattern reaches an even one exactly from half way between that and the pattern below it on (R234). -/
theorem Rounded.le_iff {p m : Nat} {x : ℚ} (h : Rounded p m x) {c : Nat} (hc : (c + 1) % 2 = 0) :
    c + 1 ≤ m ↔ ((unitsOf p c : ℚ) + unitsOf p (c + 1)) / 2 ≤ x := by
  obtain ⟨hnear, htie⟩ := h
  have hmono := (unitsOf_strictMono p).monotone
  have hstep : (unitsOf p c : ℚ) < unitsOf p (c + 1) := by exact_mod_cast unitsOf_strictMono p (Nat.lt_succ_self c)
  constructor
  · intro hle
    by_contra hlt
    have habove : (unitsOf p (c + 1) : ℚ) ≤ unitsOf p m := by exact_mod_cast hmono hle
    have hbelow := hnear c
    rw [abs_of_pos (by linarith : (0 : ℚ) < unitsOf p m - x)] at hbelow
    have hfar : |(unitsOf p c : ℚ) - x| < unitsOf p m - x := abs_lt.mpr ⟨by linarith, by linarith⟩
    linarith
  · intro hx
    by_contra hlt
    have hm : m ≤ c := by omega
    have hbelow : (unitsOf p m : ℚ) ≤ unitsOf p c := by exact_mod_cast hmono hm
    have habove := hnear (c + 1)
    rw [abs_of_neg (by linarith : (unitsOf p m : ℚ) - x < 0)] at habove
    have hle : |(unitsOf p (c + 1) : ℚ) - x| ≤ -(unitsOf p m - x) := abs_le.mpr ⟨by linarith, by linarith⟩
    have hsame : (unitsOf p m : ℚ) = unitsOf p c := by
      rcases abs_cases ((unitsOf p (c + 1) : ℚ) - x) with ⟨habs, -⟩ | ⟨habs, -⟩ <;> linarith
    have hmc : m = c := (unitsOf_strictMono p).injective (by exact_mod_cast hsame)
    subst hmc
    have heq : |(unitsOf p (m + 1) : ℚ) - x| = |(unitsOf p m : ℚ) - x| := by
      rw [abs_of_neg (by linarith : (unitsOf p m : ℚ) - x < 0)]; linarith
    have heven := htie (m + 1) (unitsOf_strictMono p (Nat.lt_succ_self m)).ne' heq
    omega

/-! ### Signs -/

/-- A signed number of the format, in units. -/
theorem signedUnits_true (u : Nat) : ((signedUnits true u : Int) : ℚ) = -u := by simp [signedUnits]

theorem signedUnits_false (u : Nat) : ((signedUnits false u : Int) : ℚ) = u := by simp [signedUnits]

/-- The pattern nearest to `x` units, taken with sign plus, is nearest among the numbers of both signs. -/
theorem Rounded.nearest_of_nonneg {p m : Nat} {x : ℚ} (h : Rounded p m x) (hx : 0 ≤ x) (n : Bool) (c : Nat) :
    |(unitsOf p m : ℚ) - x| ≤ |((signedUnits n (unitsOf p c) : Int) : ℚ) - x| ∧
      (((signedUnits n (unitsOf p c) : Int) : ℚ) ≠ unitsOf p m →
        |((signedUnits n (unitsOf p c) : Int) : ℚ) - x| = |(unitsOf p m : ℚ) - x| → m % 2 = 0) := by
  obtain ⟨hnear, htie⟩ := h
  cases n with
  | false =>
    rw [signedUnits_false]
    exact ⟨hnear c, fun hne => htie c (by exact_mod_cast hne)⟩
  | true =>
    have hzero := hnear 0
    have hc : (0 : ℚ) ≤ unitsOf p c := Nat.cast_nonneg _
    have habs : |-(unitsOf p c : ℚ) - x| = unitsOf p c + x := by
      rw [abs_of_nonpos (by linarith)]; ring
    have habs0 : |(unitsOf p 0 : ℚ) - x| = x := by
      rw [unitsOf_zero, Nat.cast_zero, zero_sub, abs_neg, abs_of_nonneg hx]
    rw [signedUnits_true, habs]
    rw [habs0] at hzero
    refine ⟨by linarith, fun hne heq => ?_⟩
    have hczero : (unitsOf p c : ℚ) = 0 := by linarith
    rw [hczero, neg_zero] at hne
    refine htie 0 ?_ (by rw [habs0]; linarith)
    rw [unitsOf_zero]
    exact_mod_cast hne

/-- Negation of a signed number. -/
theorem signedUnits_not (n : Bool) (u : Nat) : ((signedUnits (!n) u : Int) : ℚ) = -((signedUnits n u : Int) : ℚ) := by
  cases n <;> simp [signedUnits]

/-- The pattern nearest to the magnitude of `y` units, taken with the sign of `y`, is nearest to `y` among the numbers of both
signs. -/
theorem Rounded.nearest {p m : Nat} {y : ℚ} (h : Rounded p m |y|) {neg : Bool} (hneg : y < 0 → neg = true)
    (hpos : 0 < y → neg = false) (n : Bool) (c : Nat) :
    |((signedUnits neg (unitsOf p m) : Int) : ℚ) - y| ≤ |((signedUnits n (unitsOf p c) : Int) : ℚ) - y| ∧
      (((signedUnits n (unitsOf p c) : Int) : ℚ) ≠ (signedUnits neg (unitsOf p m) : Int) →
        |((signedUnits n (unitsOf p c) : Int) : ℚ) - y| = |((signedUnits neg (unitsOf p m) : Int) : ℚ) - y| →
        m % 2 = 0) := by
  cases neg with
  | false =>
    have hy : 0 ≤ y := not_lt.mp fun hlt => Bool.false_ne_true (hneg hlt)
    rw [abs_of_nonneg hy] at h
    rw [signedUnits_false]
    exact h.nearest_of_nonneg hy n c
  | true =>
    have hy : y ≤ 0 := not_lt.mp fun hlt => Bool.false_ne_true (hpos hlt).symm
    rw [abs_of_nonpos hy] at h
    have hflip (a : ℚ) : |-a - y| = |a - -y| := by rw [← abs_neg]; congr 1; ring
    obtain ⟨hle, htie⟩ := h.nearest_of_nonneg (by linarith) (!n) c
    have hother : ((signedUnits n (unitsOf p c) : Int) : ℚ) = -((signedUnits (!n) (unitsOf p c) : Int) : ℚ) := by
      rw [signedUnits_not, neg_neg]
    rw [signedUnits_true, hother, hflip, hflip]
    exact ⟨hle, fun hne => htie fun heq => hne (by rw [heq])⟩

end Sys2Proof.Machine
end

section
/-! PROOFS. The four operations on data (46_floating_point.md R232 to R235), for both formats: the exact result, its rounding,
and the special cases. -/

namespace Sys2Proof.Machine

/-! ### Data -/

/-- The operation on two data (R232): what `fpOp` does once the bits are read. -/
def fpApply (fmt : FpFormat) (op : FpOperation) (x y : FpDatum) : FpResult :=
  match op with
  | .add => fpAdd fmt x y
  | .sub => fpAdd fmt x (fpNegate y)
  | .mul => fpMul fmt x y
  | .div => fpDiv fmt x y

theorem fpOp_eq_fpApply (fmt : FpFormat) (op : FpOperation) (a b : Nat) :
    fpOp fmt op a b = fpApply fmt op (fpDatum fmt a) (fpDatum fmt b) := rfl

/-- The exact number of a sign and a magnitude in units. -/
def unitsValue (fmt : FpFormat) (n : Bool) (u : Nat) : ℚ :=
  ((signedUnits n u : Int) : ℚ) / (unitsOfOne fmt : Nat)

theorem unitsOfOne_pos (fmt : FpFormat) : (0 : ℚ) < (unitsOfOne fmt : Nat) := by
  exact_mod_cast Nat.two_pow_pos _

theorem unitsValue_eq_zero_iff {fmt : FpFormat} {n : Bool} {u : Nat} : unitsValue fmt n u = 0 ↔ u = 0 := by
  rw [unitsValue, div_eq_zero_iff, or_iff_left (unitsOfOne_pos fmt).ne']
  cases n <;> simp [signedUnits]

/-- The sign of an exact zero (R232, case 4). -/
def zeroSign (op : FpOperation) (n k : Bool) : Bool :=
  match op with
  | .add => n && k
  | .sub => n && !k
  | .mul => n != k
  | .div => n != k

/-! ### Finite operands -/

/-- What an operation on finite operands with the exact result `z` answers: the zero of the sign `zero`, or the rounding of
`z`'s magnitude in units. -/
inductive Computes (fmt : FpFormat) (z : ℚ) (zero : Bool) : FpResult → Prop
  | zero (hz : z = 0) : Computes fmt z zero (fpZero zero)
  | round (negative : Bool) (num den : Nat) (hden : 0 < den) (hz : z ≠ 0) (hsign : negative = true ↔ z < 0)
      (habs : |z| * (unitsOfOne fmt : Nat) = num / den) : Computes fmt z zero (fpRound fmt negative num den)

theorem fpAdd_computes (fmt : FpFormat) (n k : Bool) (u v : Nat) :
    Computes fmt (unitsValue fmt n u + unitsValue fmt k v) (n && k) (fpAdd fmt (.finite n u) (.finite k v)) := by
  have hone := unitsOfOne_pos fmt
  have hsum : unitsValue fmt n u + unitsValue fmt k v =
      ((signedUnits n u + signedUnits k v : Int) : ℚ) / (unitsOfOne fmt : Nat) := by
    rw [unitsValue, unitsValue, ← add_div, Int.cast_add]
  rw [hsum, fpAdd]
  generalize signedUnits n u + signedUnits k v = z
  split
  · next hz => rw [hz]; exact .zero (by simp)
  · next hz =>
    refine .round _ _ _ Nat.one_pos (div_ne_zero (by exact_mod_cast hz) hone.ne') ?_ ?_
    · rw [decide_eq_true_eq, div_lt_iff₀ hone, zero_mul, Int.cast_lt_zero]
    · rw [abs_div, abs_of_pos hone, div_mul_cancel₀ _ hone.ne', Nat.cast_natAbs]
      simp

theorem unitsValue_not (fmt : FpFormat) (k : Bool) (v : Nat) : unitsValue fmt (!k) v = -unitsValue fmt k v := by
  rw [unitsValue, signedUnits_not, neg_div, unitsValue]

/-- The magnitude and the sign of a signed number. -/
theorem abs_unitsValue (fmt : FpFormat) (n : Bool) (u : Nat) : |unitsValue fmt n u| = u / (unitsOfOne fmt : Nat) := by
  rw [unitsValue, abs_div, abs_of_pos (unitsOfOne_pos fmt)]
  cases n <;> simp [signedUnits]

theorem unitsValue_neg_iff {fmt : FpFormat} {n : Bool} {u : Nat} (hu : u ≠ 0) : unitsValue fmt n u < 0 ↔ n = true := by
  have hpos : (0 : ℚ) < u := by exact_mod_cast Nat.pos_of_ne_zero hu
  rw [unitsValue, div_lt_iff₀ (unitsOfOne_pos fmt), zero_mul]
  cases n with
  | false => simp [signedUnits]
  | true => simpa [signedUnits] using hpos

theorem unitsValue_pos_iff {fmt : FpFormat} {n : Bool} {u : Nat} (hu : u ≠ 0) : 0 < unitsValue fmt n u ↔ n = false := by
  have hflip := unitsValue_neg_iff (fmt := fmt) (n := !n) hu
  rw [unitsValue_not, neg_lt_zero] at hflip
  rw [hflip]
  cases n <;> simp

theorem fpMul_computes (fmt : FpFormat) (n k : Bool) (u v : Nat) :
    Computes fmt (unitsValue fmt n u * unitsValue fmt k v) (n != k) (fpMul fmt (.finite n u) (.finite k v)) := by
  have hone := unitsOfOne_pos fmt
  rw [fpMul]
  split
  · next huv =>
    refine .zero ?_
    rcases Nat.mul_eq_zero.mp huv with hu | hv
    · rw [unitsValue_eq_zero_iff.mpr hu, zero_mul]
    · rw [unitsValue_eq_zero_iff.mpr hv, mul_zero]
  · next huv =>
    obtain ⟨hu, hv⟩ := not_or.mp (fun h => huv (Nat.mul_eq_zero.mpr h))
    refine .round _ _ _ (by exact_mod_cast hone) ?_ ?_ ?_
    · exact mul_ne_zero (fun h => hu (unitsValue_eq_zero_iff.mp h)) fun h => hv (unitsValue_eq_zero_iff.mp h)
    · rw [mul_neg_iff, unitsValue_pos_iff hu, unitsValue_neg_iff hv, unitsValue_neg_iff hu, unitsValue_pos_iff hv]
      cases n <;> cases k <;> decide
    · rw [abs_mul, abs_unitsValue, abs_unitsValue]
      push_cast
      field_simp

theorem fpDiv_computes (fmt : FpFormat) (n k : Bool) (u : Nat) {v : Nat} (hv : v ≠ 0) :
    Computes fmt (unitsValue fmt n u / unitsValue fmt k v) (n != k) (fpDiv fmt (.finite n u) (.finite k v)) := by
  have hone := unitsOfOne_pos fmt
  rw [fpDiv, if_neg hv]
  split
  · next hu => exact .zero (by rw [unitsValue_eq_zero_iff.mpr hu, zero_div])
  · next hu =>
    have hvQ : (v : ℚ) ≠ 0 := by exact_mod_cast hv
    refine .round _ _ _ (Nat.pos_of_ne_zero hv) ?_ ?_ ?_
    · exact div_ne_zero (fun h => hu (unitsValue_eq_zero_iff.mp h)) fun h => hv (unitsValue_eq_zero_iff.mp h)
    · rw [div_neg_iff, unitsValue_pos_iff hu, unitsValue_neg_iff hv, unitsValue_neg_iff hu, unitsValue_pos_iff hv]
      cases n <;> cases k <;> decide
    · rw [abs_div, abs_unitsValue, abs_unitsValue]
      push_cast
      field_simp

/-- Each operation on finite operands computes its exact result (R232). -/
theorem fpApply_computes (fmt : FpFormat) (op : FpOperation) (n k : Bool) (u v : Nat) (hdiv : op = .div → v ≠ 0) :
    Computes fmt (exactResult op (unitsValue fmt n u) (unitsValue fmt k v)) (zeroSign op n k)
      (fpApply fmt op (.finite n u) (.finite k v)) := by
  cases op with
  | add => exact fpAdd_computes fmt n k u v
  | sub =>
    have hsub := fpAdd_computes fmt n (!k) u v
    rw [unitsValue_not, ← sub_eq_add_neg] at hsub
    exact hsub
  | mul => exact fpMul_computes fmt n k u v
  | div => exact fpDiv_computes fmt n k u (hdiv rfl)

/-! ### The rounded result -/

/-- The pattern of infinity: the first that no finite number has (R231). -/
def infinityPattern (fmt : FpFormat) : Nat :=
  maxExponent fmt * 2 ^ fmt.fracBits

/-- Half way from the largest finite number to the next power of 2, in units (R234). -/
def limitUnits (fmt : FpFormat) : ℚ :=
  ((unitsOf fmt.fracBits (infinityPattern fmt - 1) : ℚ) + unitsOf fmt.fracBits (infinityPattern fmt)) / 2

section
variable {fmt : FpFormat} {z : ℚ} {zero : Bool} {r : FpResult}

theorem infinityPattern_pos (hw : fmt.expBits ≠ 0) : 0 < infinityPattern fmt := by
  have hexp : 1 < 2 ^ fmt.expBits := Nat.one_lt_two_pow hw
  exact Nat.mul_pos (by rw [maxExponent]; omega) (Nat.two_pow_pos _)

theorem limitUnits_pos (hw : fmt.expBits ≠ 0) : 0 < limitUnits fmt := by
  have hstep : 0 < unitsOf fmt.fracBits (infinityPattern fmt) := by
    have hmono := unitsOf_strictMono fmt.fracBits (infinityPattern_pos hw)
    omega
  have hstepQ : (0 : ℚ) < unitsOf fmt.fracBits (infinityPattern fmt) := by exact_mod_cast hstep
  rw [limitUnits]
  positivity

/-- The pattern of infinity is reached exactly from the limit on. -/
theorem Rounded.infinity_le_iff (hw : fmt.expBits ≠ 0) (hp : fmt.fracBits ≠ 0) {m : Nat} {x : ℚ}
    (h : Rounded fmt.fracBits m x) : infinityPattern fmt ≤ m ↔ limitUnits fmt ≤ x := by
  have hpos := infinityPattern_pos hw
  have hsucc : infinityPattern fmt - 1 + 1 = infinityPattern fmt := by omega
  have heven : infinityPattern fmt % 2 = 0 := by simp [infinityPattern, Nat.mul_mod, Nat.pow_mod, hp]
  have hiff := h.le_iff (c := infinityPattern fmt - 1) (by rw [hsucc, heven])
  rwa [hsucc] at hiff

/-- Below the limit the result is the pattern nearest to the magnitude, with the sign of `z`. -/
theorem Computes.value_of_lt (h : Computes fmt z zero r) (hw : fmt.expBits ≠ 0) (hp : fmt.fracBits ≠ 0)
    (hlt : |z| * (unitsOfOne fmt : Nat) < limitUnits fmt) :
    ∃ n m, r = .value n m ∧ m < infinityPattern fmt ∧ Rounded fmt.fracBits m (|z| * (unitsOfOne fmt : Nat)) ∧
      (z < 0 → n = true) ∧ (0 < z → n = false) := by
  cases h with
  | zero hz =>
    refine ⟨zero, 0, rfl, infinityPattern_pos hw, ?_, fun hneg => absurd hz hneg.ne, fun hpos => absurd hz hpos.ne'⟩
    rw [hz, abs_zero, zero_mul]
    exact rounded_zero _
  | round negative num den hden hz hsign habs =>
    have hround := rounded_roundedPattern hp num hden
    rw [← habs] at hround
    have hfinite : roundedPattern fmt.fracBits num den < infinityPattern fmt := by
      rw [← Nat.not_le, hround.infinity_le_iff hw hp]
      exact not_le.mpr hlt
    refine ⟨negative, _, (fpRound_eq _ _ _ _).trans (if_neg (Nat.not_le.mpr hfinite)), hfinite, hround, hsign.mpr,
      fun hpos => ?_⟩
    rw [Bool.eq_false_iff, ne_eq, hsign]
    exact hpos.le.not_gt

/-- From the limit on the result overflows (R234). -/
theorem Computes.overflow_of_le (h : Computes fmt z zero r) (hw : fmt.expBits ≠ 0) (hp : fmt.fracBits ≠ 0)
    (hle : limitUnits fmt ≤ |z| * (unitsOfOne fmt : Nat)) : r = .overflow := by
  cases h with
  | zero hz =>
    rw [hz, abs_zero, zero_mul] at hle
    exact absurd hle (limitUnits_pos hw).not_ge
  | round negative num den hden hz hsign habs =>
    have hround := rounded_roundedPattern hp num hden
    rw [← habs] at hround
    exact (fpRound_eq _ _ _ _).trans (if_pos ((hround.infinity_le_iff hw hp).mpr hle))

/-- An exact zero is delivered with the sign of the rule. -/
theorem Computes.zero_of_eq (h : Computes fmt z zero r) (hz : z = 0) : r = .value zero 0 := by
  cases h with
  | zero _ => rfl
  | round negative num den hden hne hsign habs => exact absurd hz hne

end

/-! ### Special operands (R233, R235) -/

/-- The sign of a number or an infinity. -/
def FpDatum.sign : FpDatum → Bool
  | .nan => false
  | .infinite n => n
  | .finite n _ => n

/-- An infinity of either sign. -/
def FpDatum.IsInfinite (x : FpDatum) : Prop :=
  ∃ n, x = .infinite n

/-- A zero of either sign. -/
def FpDatum.IsZero (x : FpDatum) : Prop :=
  ∃ n, x = .finite n 0

/-- An operand is a NaN or the operation is one of the invalid ones (R233). -/
def InvalidData (op : FpOperation) (x y : FpDatum) : Prop :=
  x = .nan ∨ y = .nan ∨
    match op with
    | .add => x.IsInfinite ∧ y.IsInfinite ∧ x ≠ y
    | .sub => x.IsInfinite ∧ y.IsInfinite ∧ x = y
    | .mul => (x.IsZero ∧ y.IsInfinite) ∨ (x.IsInfinite ∧ y.IsZero)
    | .div => (x.IsZero ∧ y.IsZero) ∨ (x.IsInfinite ∧ y.IsInfinite)

theorem fpApply_nan_left (fmt : FpFormat) (op : FpOperation) (y : FpDatum) : fpApply fmt op .nan y = .nan := by
  cases op <;> cases y <;> rfl

theorem fpApply_nan_right (fmt : FpFormat) (op : FpOperation) (x : FpDatum) : fpApply fmt op x .nan = .nan := by
  cases op <;> cases x <;> rfl

/-- An invalid operation answers a NaN. -/
theorem fpApply_of_invalid {fmt : FpFormat} {op : FpOperation} {x y : FpDatum} (h : InvalidData op x y) :
    fpApply fmt op x y = .nan := by
  rcases h with rfl | rfl | h
  · exact fpApply_nan_left fmt op y
  · exact fpApply_nan_right fmt op x
  cases op with
  | add =>
    obtain ⟨⟨n, rfl⟩, ⟨k, rfl⟩, hne⟩ := h
    exact if_neg fun hnk => hne (by rw [hnk])
  | sub =>
    obtain ⟨⟨n, rfl⟩, -, rfl⟩ := h
    exact if_neg (by cases n <;> decide)
  | mul => rcases h with ⟨⟨n, rfl⟩, ⟨k, rfl⟩⟩ | ⟨⟨n, rfl⟩, ⟨k, rfl⟩⟩ <;> rfl
  | div => rcases h with ⟨⟨n, rfl⟩, ⟨k, rfl⟩⟩ | ⟨⟨n, rfl⟩, ⟨k, rfl⟩⟩ <;> rfl

/-- The result of a valid operation with an infinite operand (R232, case 3). -/
def infiniteResult (fmt : FpFormat) (op : FpOperation) (x y : FpDatum) (xInfinite : Bool) : FpResult :=
  match op with
  | .add => fpInfinity fmt (if xInfinite then x.sign else y.sign)
  | .sub => fpInfinity fmt (if xInfinite then x.sign else !y.sign)
  | .mul => fpInfinity fmt (x.sign != y.sign)
  | .div => if xInfinite then fpInfinity fmt (x.sign != y.sign) else fpZero (x.sign != y.sign)

/-- A valid operation whose first operand is infinite. -/
theorem fpApply_infinite_left {fmt : FpFormat} {op : FpOperation} {n : Bool} {y : FpDatum}
    (h : ¬InvalidData op (.infinite n) y) :
    fpApply fmt op (.infinite n) y = infiniteResult fmt op (.infinite n) y true := by
  obtain ⟨-, hy, hop⟩ := not_or.mp h |>.imp_right not_or.mp
  cases y with
  | nan => exact absurd rfl hy
  | infinite k =>
    cases op with
    | add =>
      have hnk : n = k := by
        by_contra hne
        exact hop ⟨⟨n, rfl⟩, ⟨k, rfl⟩, fun heq => hne (FpDatum.infinite.inj heq)⟩
      exact if_pos hnk
    | sub =>
      have hnk : n ≠ k := fun heq => hop ⟨⟨n, rfl⟩, ⟨k, rfl⟩, by rw [heq]⟩
      exact if_pos (by cases n <;> cases k <;> simp_all)
    | mul => rfl
    | div => exact absurd (.inr ⟨⟨n, rfl⟩, ⟨k, rfl⟩⟩) hop
  | finite k v =>
    cases op with
    | add => rfl
    | sub => rfl
    | mul => exact if_neg fun hv => hop (.inr ⟨⟨n, rfl⟩, ⟨k, by rw [hv]⟩⟩)
    | div => rfl

/-- A valid operation of a number and an infinity. -/
theorem fpApply_infinite_right {fmt : FpFormat} {op : FpOperation} {n k : Bool} {u : Nat}
    (h : ¬InvalidData op (.finite n u) (.infinite k)) :
    fpApply fmt op (.finite n u) (.infinite k) = infiniteResult fmt op (.finite n u) (.infinite k) false := by
  obtain ⟨-, -, hop⟩ := not_or.mp h |>.imp_right not_or.mp
  cases op with
  | add => rfl
  | sub => rfl
  | mul => exact if_neg fun hu => hop (.inl ⟨⟨n, by rw [hu]⟩, ⟨k, rfl⟩⟩)
  | div => rfl

/-- A number that is not zero divided by a zero (R235). -/
theorem fpApply_div_zero {fmt : FpFormat} {n k : Bool} {u : Nat} (hu : u ≠ 0) :
    fpApply fmt .div (.finite n u) (.finite k 0) = .divZero := by
  simp [fpApply, fpDiv, hu]

end Sys2Proof.Machine
end

section
/-! PROOFS. Words as floating point numbers (46_floating_point.md R231), for any width `w` of the exponent field and `p` of the
fraction field: the fields of the word against the datum and the pattern that the numerics work with. -/

namespace Sys2Proof.Machine

/-- A word of a sign bit and the other bits. -/
def packBits (k : Nat) (n : Bool) (m : Nat) : BitVec (1 + k) :=
  BitVec.ofBool n ++ BitVec.ofNat k m

section
variable {k : Nat}

theorem packBits_toNat {n : Bool} {m : Nat} (hm : m < 2 ^ k) : (packBits k n m).toNat = 2 ^ k * n.toNat + m := by
  rw [packBits, BitVec.toNat_append, BitVec.toNat_ofBool, BitVec.toNat_ofNat, Nat.mod_eq_of_lt hm, Nat.shiftLeft_eq,
    Nat.mul_comm, Nat.two_pow_add_eq_or_of_lt hm]

theorem packBits_toNat_mod {n : Bool} {m : Nat} (hm : m < 2 ^ k) : (packBits k n m).toNat % 2 ^ k = m := by
  rw [packBits_toNat hm, Nat.mul_add_mod, Nat.mod_eq_of_lt hm]

/-- The sign bit of a word. -/
theorem getLsbD_eq_div {w : Nat} (b : BitVec w) (k : Nat) : b.getLsbD k = (b.toNat / 2 ^ k % 2 == 1) := by
  rw [← BitVec.testBit_toNat, Nat.testBit_eq_decide_div_mod_eq]; rfl

theorem packBits_sign {n : Bool} {m : Nat} (hm : m < 2 ^ k) : (packBits k n m).getLsbD k = n := by
  rw [getLsbD_eq_div, packBits_toNat hm, Nat.mul_add_div (Nat.two_pow_pos k), Nat.div_eq_of_lt hm]
  cases n <;> rfl

/-- A word is put together again from its sign and its other bits. -/
theorem packBits_fields (b : BitVec (1 + k)) : packBits k (b.getLsbD k) (b.toNat % 2 ^ k) = b := by
  have hmod : b.toNat % 2 ^ k < 2 ^ k := Nat.mod_lt _ (Nat.two_pow_pos k)
  have hlt : b.toNat / 2 ^ k < 2 := by
    refine Nat.div_lt_of_lt_mul ?_
    calc b.toNat < 2 ^ (1 + k) := b.isLt
      _ = 2 ^ k * 2 := by ring
  have hsign : (b.getLsbD k).toNat = b.toNat / 2 ^ k := by
    have hbit (q : Nat) (hq : q < 2) : (q % 2 == 1).toNat = q := by interval_cases q <;> rfl
    rw [getLsbD_eq_div]
    exact hbit _ hlt
  apply BitVec.eq_of_toNat_eq
  rw [packBits_toNat hmod, hsign, Nat.div_add_mod]

theorem packBits_inj {n n' : Bool} {m m' : Nat} (hm : m < 2 ^ k) (hm' : m' < 2 ^ k) :
    packBits k n m = packBits k n' m' ↔ n = n' ∧ m = m' := by
  refine ⟨fun h => ⟨?_, ?_⟩, fun ⟨hn, hmm⟩ => by rw [hn, hmm]⟩
  · rw [← packBits_sign (n := n) hm, h, packBits_sign hm']
  · rw [← packBits_toNat_mod (n := n) hm, h, packBits_toNat_mod hm']

/-- A sign bit inverted where `n'` is true. -/
theorem packBits_xor_sign (n n' : Bool) (m : Nat) :
    packBits k n m ^^^ packBits k n' 0 = packBits k (n != n') m := by
  rw [packBits, packBits, BitVec.xor_append, BitVec.xor_zero, BitVec.ofBool_xor_ofBool]; rfl

/-- The other bits put below a sign. -/
theorem packBits_sign_or (n : Bool) (m : Nat) : packBits k n 0 ||| packBits k false m = packBits k n m := by
  rw [packBits, packBits, BitVec.or_append, BitVec.zero_or, BitVec.ofBool_or_ofBool, Bool.or_false,
    packBits]

/-- The exclusive-or of two signs, as a word. -/
theorem xor_and_sign (a b : BitVec (1 + k)) :
    (a ^^^ b) &&& packBits k true 0 = packBits k (a.getLsbD k != b.getLsbD k) 0 := by
  conv_lhs => rw [← packBits_fields a, ← packBits_fields b]
  rw [packBits, packBits, packBits, BitVec.xor_append, BitVec.and_append, BitVec.and_zero,
    BitVec.ofBool_xor_ofBool, BitVec.ofBool_and_ofBool, Bool.and_true, packBits]

end

section
variable {w p : Nat}

/-- The exponent field of the bits without the sign is that of all bits. -/
theorem mod_div_two_pow (p w x : Nat) : x % 2 ^ (w + p) / 2 ^ p = x / 2 ^ p % 2 ^ w := by
  rw [Nat.add_comm, pow_add, Nat.mod_mul_right_div_self]

/-- So is the fraction field. -/
theorem mod_mod_two_pow (p w x : Nat) : x % 2 ^ (w + p) % 2 ^ p = x % 2 ^ p :=
  Nat.mod_mod_of_dvd x (Nat.pow_dvd_pow 2 (Nat.le_add_left p w))

/-- The units of the other bits, by the exponent and the fraction field. -/
theorem unitsOf_mod (p w x : Nat) :
    unitsOf p (x % 2 ^ (w + p)) =
      if x / 2 ^ p % 2 ^ w = 0 then x % 2 ^ p else (2 ^ p + x % 2 ^ p) * 2 ^ (x / 2 ^ p % 2 ^ w - 1) := by
  rw [unitsOf, mod_div_two_pow, mod_mod_two_pow]

theorem extractLsb'_toNat_eq {n : Nat} (b : BitVec n) (i l : Nat) : (b.extractLsb' i l).toNat = b.toNat / 2 ^ i % 2 ^ l := by
  rw [BitVec.extractLsb'_toNat, Nat.shiftRight_eq_div_pow]

theorem fraction_toNat {n : Nat} (b : BitVec n) (p : Nat) : (b.extractLsb' 0 p).toNat = b.toNat % 2 ^ p := by
  rw [extractLsb'_toNat_eq, pow_zero, Nat.div_one]

/-- The datum of a word, by its fields (R231). -/
theorem fpDatum_toNat {n : Nat} (b : BitVec n) (w p : Nat) :
    fpDatum ⟨w, p⟩ b.toNat =
      if b.extractLsb' p w = BitVec.allOnes w then
        if b.extractLsb' 0 p = 0#p then .infinite (b.getLsbD (w + p)) else .nan
      else .finite (b.getLsbD (w + p)) (unitsOf p (b.toNat % 2 ^ (w + p))) := by
  have hexp : b.extractLsb' p w = BitVec.allOnes w ↔ b.toNat / 2 ^ p % 2 ^ w = maxExponent ⟨w, p⟩ := by
    rw [← BitVec.toNat_inj, extractLsb'_toNat_eq, BitVec.toNat_allOnes]; rfl
  have hfrac : b.extractLsb' 0 p = 0#p ↔ b.toNat % 2 ^ p = 0 := by
    rw [← BitVec.toNat_inj, fraction_toNat, BitVec.toNat_zero]
  simp only [hexp, hfrac, unitsOf_mod, fpDatum, ← getLsbD_eq_div]
  split_ifs <;> rfl

/-- The value that the fields `e` and `m` of a finite number stand for, `B` being one less than the bias (R231). -/
theorem fields_value (B p e m : Nat) (n : Bool) :
    (if e = 0 then (if n then -1 else 1) * (m : ℚ) * 2 ^ (-((B + p : Nat) : ℤ))
      else (if n then -1 else 1) * (1 + (m : ℚ) / 2 ^ p) * 2 ^ ((e : ℤ) - ((B + 1 : Nat) : ℤ))) =
      ((signedUnits n (if e = 0 then m else (2 ^ p + m) * 2 ^ (e - 1)) : Int) : ℚ) / (2 ^ (B + p) : Nat) := by
  have hsigned (u : Nat) : ((signedUnits n u : Int) : ℚ) = (if n then -1 else 1) * u := by cases n <;> simp [signedUnits]
  rw [hsigned]
  split
  · rw [zpow_neg, zpow_natCast]
    push_cast
    rw [div_eq_mul_inv]
  · next he =>
    obtain ⟨d, rfl⟩ := Nat.exists_eq_succ_of_ne_zero he
    have hshift : ((d.succ : Nat) : ℤ) - ((B + 1 : Nat) : ℤ) = (d : ℤ) - (B : ℤ) := by push_cast; ring
    rw [hshift, zpow_sub₀ two_ne_zero, zpow_natCast, zpow_natCast, Nat.succ_sub_one]
    push_cast
    field_simp
    ring

end

/-- The limit, in units: half a unit in the last place above the largest finite number (R234). -/
theorem limitUnits_eq (fmt : FpFormat) (hw : 2 ≤ maxExponent fmt) :
    limitUnits fmt = (2 ^ (fmt.fracBits + 2) - 1) * 2 ^ (maxExponent fmt - 2) / 2 := by
  obtain ⟨t, ht⟩ : ∃ t, maxExponent fmt = t + 2 := ⟨maxExponent fmt - 2, by omega⟩
  have hdouble : 2 ^ (fmt.fracBits + 1) = 2 ^ fmt.fracBits + 2 ^ fmt.fracBits := by rw [pow_succ]; omega
  have hpos : 0 < 2 ^ fmt.fracBits := Nat.two_pow_pos _
  have htop : infinityPattern fmt = t * 2 ^ fmt.fracBits + 2 ^ (fmt.fracBits + 1) := by
    rw [infinityPattern, ht, hdouble]; ring
  have hlast : infinityPattern fmt - 1 = t * 2 ^ fmt.fracBits + (2 ^ (fmt.fracBits + 1) - 1) := by omega
  rw [limitUnits, hlast, htop, unitsOf_spacing (Nat.sub_le _ _) (.inr (by omega)), unitsOf_spacing le_rfl (.inr (by omega)),
    ht, Nat.add_sub_cancel]
  have hone : 1 ≤ 2 ^ (fmt.fracBits + 1) := Nat.one_le_two_pow
  push_cast [Nat.cast_sub hone]
  ring

/-! ### The sign of an exact zero -/

/-- A zero sum of two numbers with the sign minus is that of two zeros. -/
theorem zeroSign_add_iff {fmt : FpFormat} {n k : Bool} {u v : Nat} (h : unitsValue fmt n u + unitsValue fmt k v = 0) :
    (n && k) = true ↔ (n = true ∧ u = 0) ∧ k = true ∧ v = 0 := by
  refine ⟨fun hnk => ?_, ?_⟩
  swap
  · rintro ⟨⟨rfl, -⟩, rfl, -⟩; rfl
  obtain ⟨rfl, rfl⟩ := Bool.and_eq_true_iff.mp hnk
  have hu : unitsValue fmt true u ≤ 0 := by
    rw [unitsValue, signedUnits_true]
    exact div_nonpos_of_nonpos_of_nonneg (by simp) (unitsOfOne_pos fmt).le
  have hv : unitsValue fmt true v ≤ 0 := by
    rw [unitsValue, signedUnits_true]
    exact div_nonpos_of_nonpos_of_nonneg (by simp) (unitsOfOne_pos fmt).le
  exact ⟨⟨rfl, unitsValue_eq_zero_iff.mp (le_antisymm hu (by linarith))⟩, rfl,
    unitsValue_eq_zero_iff.mp (le_antisymm hv (by linarith))⟩

/-- The same for a zero difference. -/
theorem zeroSign_sub_iff {fmt : FpFormat} {n k : Bool} {u v : Nat} (h : unitsValue fmt n u - unitsValue fmt k v = 0) :
    (n && !k) = true ↔ (n = true ∧ u = 0) ∧ k = false ∧ v = 0 := by
  rw [sub_eq_add_neg, ← unitsValue_not] at h
  rw [zeroSign_add_iff h]
  cases k <;> simp

end Sys2Proof.Machine
end

section
/-! PROOFS. The statements' terms on words (46_floating_point.md R231 to R235), written once for any width `w` of the exponent
field and `p` of the fraction field, and what the operations deliver in these terms. -/

namespace Sys2Proof.Machine

/-- A floating point number as a word: the sign, `w` bits of exponent, `p` bits of fraction. -/
abbrev FloatWord (w p : Nat) := BitVec (1 + (w + p))

section
variable {w p : Nat}

/-- The exponent is all ones: an infinity or a NaN. -/
abbrev Special (b : FloatWord w p) : Prop :=
  b.extractLsb' p w = BitVec.allOnes w

abbrev WordNaN (b : FloatWord w p) : Prop :=
  Special b ∧ b.extractLsb' 0 p ≠ 0#p

abbrev WordInfinite (b : FloatWord w p) : Prop :=
  Special b ∧ b.extractLsb' 0 p = 0#p

abbrev WordZero (b : FloatWord w p) : Prop :=
  b = packBits (w + p) false 0 ∨ b = packBits (w + p) true 0

/-- The sign bit. -/
def wordSign (b : FloatWord w p) : Bool :=
  b.getLsbD (w + p)

/-- The bits without the sign. -/
def wordPattern (b : FloatWord w p) : Nat :=
  b.toNat % 2 ^ (w + p)

/-- The value of a finite number. -/
def wordValue (b : FloatWord w p) : ℚ :=
  unitsValue ⟨w, p⟩ (wordSign b) (unitsOf p (wordPattern b))

/-! ### Words as data -/

theorem fpDatum_of_not_special {b : FloatWord w p} (h : ¬Special b) :
    fpDatum ⟨w, p⟩ b.toNat = .finite (wordSign b) (unitsOf p (wordPattern b)) := by
  rw [fpDatum_toNat, if_neg h]; rfl

theorem fpDatum_eq_nan_iff (b : FloatWord w p) : fpDatum ⟨w, p⟩ b.toNat = .nan ↔ WordNaN b := by
  rw [fpDatum_toNat]
  by_cases hexp : b.extractLsb' p w = BitVec.allOnes w
  · by_cases hfrac : b.extractLsb' 0 p = 0#p <;> simp [WordNaN, Special, hexp, hfrac]
  · simp [WordNaN, Special, hexp]

theorem fpDatum_isInfinite_iff (b : FloatWord w p) : (fpDatum ⟨w, p⟩ b.toNat).IsInfinite ↔ WordInfinite b := by
  rw [fpDatum_toNat]
  by_cases hexp : b.extractLsb' p w = BitVec.allOnes w
  · by_cases hfrac : b.extractLsb' 0 p = 0#p <;> simp [FpDatum.IsInfinite, WordInfinite, Special, hexp, hfrac]
  · simp [FpDatum.IsInfinite, WordInfinite, Special, hexp]

theorem infinityPattern_lt : infinityPattern ⟨w, p⟩ < 2 ^ (w + p) := by
  rw [pow_add]
  exact Nat.mul_lt_mul_of_pos_right (Nat.sub_lt (Nat.two_pow_pos w) Nat.one_pos) (Nat.two_pow_pos p)

/-- Each sign has one infinity. -/
theorem eq_packBits_of_fpDatum_infinite {b : FloatWord w p} {n : Bool} (h : fpDatum ⟨w, p⟩ b.toNat = .infinite n) :
    b = packBits (w + p) n (infinityPattern ⟨w, p⟩) := by
  have hsplit : b.toNat % 2 ^ (w + p) / 2 ^ p * 2 ^ p + b.toNat % 2 ^ (w + p) % 2 ^ p = b.toNat % 2 ^ (w + p) :=
    Nat.div_add_mod' _ _
  rw [fpDatum_toNat] at h
  split_ifs at h with hexp hfrac
  rw [← BitVec.toNat_inj, extractLsb'_toNat_eq, BitVec.toNat_allOnes] at hexp
  rw [← BitVec.toNat_inj, fraction_toNat, BitVec.toNat_zero] at hfrac
  rw [mod_div_two_pow, mod_mod_two_pow, hexp, hfrac, Nat.add_zero] at hsplit
  rw [← FpDatum.infinite.inj h, infinityPattern, maxExponent, hsplit, packBits_fields]

/-- A word is a zero where its other bits are. -/
theorem eq_packBits_zero_iff {b : FloatWord w p} {n : Bool} :
    b = packBits (w + p) n 0 ↔ wordSign b = n ∧ wordPattern b = 0 := by
  have hmod : wordPattern b < 2 ^ (w + p) := Nat.mod_lt _ (Nat.two_pow_pos _)
  conv_lhs => rw [← packBits_fields b]
  exact packBits_inj hmod (Nat.two_pow_pos _)

/-- A zero is no infinity and no NaN. -/
theorem not_special_of_pattern_zero (hw : w ≠ 0) {b : FloatWord w p} (h : wordPattern b = 0) : ¬Special b := by
  intro hexp
  rw [Special, ← BitVec.toNat_inj, extractLsb'_toNat_eq, BitVec.toNat_allOnes, ← mod_div_two_pow] at hexp
  rw [wordPattern] at h
  rw [h, Nat.zero_div] at hexp
  have hone : 1 < 2 ^ w := Nat.one_lt_two_pow hw
  omega

/-- Each sign has one zero. -/
theorem fpDatum_eq_zero_iff (hw : w ≠ 0) {b : FloatWord w p} {n : Bool} :
    fpDatum ⟨w, p⟩ b.toNat = .finite n 0 ↔ b = packBits (w + p) n 0 := by
  rw [eq_packBits_zero_iff]
  constructor
  · intro h
    rw [fpDatum_toNat] at h
    split_ifs at h with hexp hfrac
    obtain ⟨hsign, hunits⟩ := FpDatum.finite.inj h
    exact ⟨hsign, unitsOf_eq_zero_iff.mp hunits⟩
  · rintro ⟨hsign, hzero⟩
    rw [fpDatum_of_not_special (not_special_of_pattern_zero hw hzero), hsign, hzero, unitsOf_zero]

theorem fpDatum_isZero_iff (hw : w ≠ 0) (b : FloatWord w p) : (fpDatum ⟨w, p⟩ b.toNat).IsZero ↔ WordZero b := by
  simp only [FpDatum.IsZero, fpDatum_eq_zero_iff hw, Bool.exists_bool]

/-- A word that is not a NaN is infinite or finite. -/
theorem fpDatum_cases {b : FloatWord w p} (h : ¬WordNaN b) :
    (∃ n, fpDatum ⟨w, p⟩ b.toNat = .infinite n) ∨ ¬Special b := by
  refine or_iff_not_imp_right.mpr fun hfinite => (fpDatum_isInfinite_iff b).mpr ?_
  have hexp := not_not.mp hfinite
  exact ⟨hexp, not_not.mp fun hfrac => h ⟨hexp, hfrac⟩⟩

theorem fpDatum_sign {b : FloatWord w p} (h : ¬WordNaN b) : (fpDatum ⟨w, p⟩ b.toNat).sign = wordSign b := by
  rcases fpDatum_cases h with ⟨n, hn⟩ | hfinite
  · rw [hn, eq_packBits_of_fpDatum_infinite hn]
    exact (packBits_sign infinityPattern_lt).symm
  · rw [fpDatum_of_not_special hfinite]; rfl

/-! ### Finite operands -/

/-- Finite operands, the divisor not zero: the operation computes the exact result. -/
theorem fpOp_computes (hw : w ≠ 0) {op : FpOperation} {a b : FloatWord w p} (ha : ¬Special a) (hb : ¬Special b)
    (hdiv : op = .div → ¬WordZero b) :
    Computes ⟨w, p⟩ (exactResult op (wordValue a) (wordValue b)) (zeroSign op (wordSign a) (wordSign b))
      (fpOp ⟨w, p⟩ op a.toNat b.toNat) := by
  have hzero : op = .div → unitsOf p (wordPattern b) ≠ 0 := by
    intro hop hunits
    refine hdiv hop ((fpDatum_isZero_iff hw b).mp ⟨wordSign b, ?_⟩)
    rw [fpDatum_of_not_special hb, hunits]
  rw [fpOp_eq_fpApply, fpDatum_of_not_special ha, fpDatum_of_not_special hb]
  exact fpApply_computes ⟨w, p⟩ op _ _ _ _ hzero

/-- `v` is the number nearest to `z`, a tie going to the even one, with the sign of `z` (R232). -/
def WordNearest (v : FloatWord w p) (z : ℚ) : Prop :=
  ¬Special v ∧ (∀ c : FloatWord w p, ¬Special c → |wordValue v - z| ≤ |wordValue c - z|) ∧
    (∀ c : FloatWord w p, ¬Special c → wordValue c ≠ wordValue v → |wordValue c - z| = |wordValue v - z| →
      v.getLsbD 0 = false) ∧
    (z < 0 → v.getLsbD (w + p) = true) ∧ (0 < z → v.getLsbD (w + p) = false)

/-- A pattern below that of infinity is a finite number's. -/
theorem not_special_packBits {n : Bool} {m : Nat} (hm : m < infinityPattern ⟨w, p⟩) :
    ¬Special (packBits (w + p) n m) := by
  intro hexp
  have hlt := hm.trans infinityPattern_lt
  rw [Special, ← BitVec.toNat_inj, extractLsb'_toNat_eq, BitVec.toNat_allOnes, ← mod_div_two_pow,
    packBits_toNat_mod hlt] at hexp
  have hle : (2 ^ w - 1) * 2 ^ p ≤ m := (Nat.le_div_iff_mul_le (Nat.two_pow_pos p)).mp hexp.ge
  exact absurd hm (Nat.not_lt.mpr hle)

/-- The distance of a word's value from `z`, in units. -/
theorem abs_wordValue_sub (c : FloatWord w p) (z : ℚ) :
    |wordValue c - z| =
      |((signedUnits (wordSign c) (unitsOf p (wordPattern c)) : Int) : ℚ) - z * (unitsOfOne ⟨w, p⟩ : Nat)| /
        (unitsOfOne ⟨w, p⟩ : Nat) := by
  have hone := unitsOfOne_pos ⟨w, p⟩
  rw [wordValue, unitsValue, ← abs_of_pos hone, ← abs_div, abs_of_pos hone, sub_div, mul_div_cancel_right₀ _ hone.ne']

/-- The word of the nearest pattern is the nearest number. -/
theorem wordNearest_packBits (hp : p ≠ 0) {n : Bool} {m : Nat} {z : ℚ} (hm : m < infinityPattern ⟨w, p⟩)
    (h : Rounded p m (|z| * (unitsOfOne ⟨w, p⟩ : Nat))) (hneg : z < 0 → n = true) (hpos : 0 < z → n = false) :
    WordNearest (packBits (w + p) n m : FloatWord w p) z := by
  have hlt := hm.trans infinityPattern_lt
  have hsign : wordSign (packBits (w + p) n m : FloatWord w p) = n := packBits_sign hlt
  have hpattern : wordPattern (packBits (w + p) n m : FloatWord w p) = m := packBits_toNat_mod hlt
  have hone := unitsOfOne_pos ⟨w, p⟩
  rw [← abs_of_pos hone, ← abs_mul] at h
  have hnear (c : FloatWord w p) := h.nearest (fun hz => hneg (neg_of_mul_neg_left hz hone.le))
    (fun hz => hpos (pos_of_mul_pos_left hz hone.le)) (wordSign c) (wordPattern c)
  refine ⟨not_special_packBits hm, fun c _ => ?_, fun c _ hne heq => ?_, fun hz => hsign.trans (hneg hz),
    fun hz => hsign.trans (hpos hz)⟩
  · rw [abs_wordValue_sub, abs_wordValue_sub, hsign, hpattern]
    exact div_le_div_of_nonneg_right (hnear c).1 hone.le
  · rw [abs_wordValue_sub, abs_wordValue_sub, hsign, hpattern, div_left_inj' hone.ne'] at heq
    have heven : m % 2 = 0 := by
      refine (hnear c).2 (fun hsame => hne ?_) heq
      rw [wordValue, wordValue, unitsValue, unitsValue, hsign, hpattern, hsame]
    have hdvd : 2 ∣ 2 ^ (w + p) := dvd_pow_self 2 (by omega)
    rw [getLsbD_eq_div, pow_zero, Nat.div_one, ← Nat.mod_mod_of_dvd _ hdvd, packBits_toNat_mod hlt, heven]
    rfl

/-- Below the limit the operation delivers the number nearest to the exact result. -/
theorem fpOp_nearest (hw : w ≠ 0) (hp : p ≠ 0) {op : FpOperation} {a b : FloatWord w p} (ha : ¬Special a)
    (hb : ¬Special b) (hdiv : op = .div → ¬WordZero b)
    (hlt : |exactResult op (wordValue a) (wordValue b)| * (unitsOfOne ⟨w, p⟩ : Nat) < limitUnits ⟨w, p⟩) :
    ∃ n m, fpOp ⟨w, p⟩ op a.toNat b.toNat = .value n m ∧
      WordNearest (packBits (w + p) n m : FloatWord w p) (exactResult op (wordValue a) (wordValue b)) := by
  obtain ⟨n, m, hvalue, hm, hround, hneg, hpos⟩ := (fpOp_computes hw ha hb hdiv).value_of_lt hw hp hlt
  exact ⟨n, m, hvalue, wordNearest_packBits hp hm hround hneg hpos⟩

/-- From the limit on it overflows. -/
theorem fpOp_overflow (hw : w ≠ 0) (hp : p ≠ 0) {op : FpOperation} {a b : FloatWord w p} (ha : ¬Special a)
    (hb : ¬Special b) (hdiv : op = .div → ¬WordZero b)
    (hle : limitUnits ⟨w, p⟩ ≤ |exactResult op (wordValue a) (wordValue b)| * (unitsOfOne ⟨w, p⟩ : Nat)) :
    fpOp ⟨w, p⟩ op a.toNat b.toNat = .overflow :=
  (fpOp_computes hw ha hb hdiv).overflow_of_le hw hp hle

/-- A finite number that is not zero divided by a zero. -/
theorem fpOp_divide_by_zero (hw : w ≠ 0) {a b : FloatWord w p} (ha : ¬Special a) (hnonzero : ¬WordZero a)
    (hzero : WordZero b) : fpOp ⟨w, p⟩ .div a.toNat b.toNat = .divZero := by
  obtain ⟨k, hk⟩ := (fpDatum_isZero_iff hw b).mpr hzero
  have hunits : unitsOf p (wordPattern a) ≠ 0 := by
    intro hunits
    refine hnonzero ((fpDatum_isZero_iff hw a).mp ⟨wordSign a, ?_⟩)
    rw [fpDatum_of_not_special ha, hunits]
  rw [fpOp_eq_fpApply, fpDatum_of_not_special ha, hk, fpApply_div_zero hunits]

/-! ### Invalid operations (R233) -/

/-- An operand is a NaN or the operation is one of the invalid ones. -/
def WordInvalid (op : FpOperation) (a b : FloatWord w p) : Prop :=
  WordNaN a ∨ WordNaN b ∨
    match op with
    | .add => WordInfinite a ∧ WordInfinite b ∧ a ≠ b
    | .sub => WordInfinite a ∧ WordInfinite b ∧ a = b
    | .mul => (WordZero a ∧ WordInfinite b) ∨ (WordInfinite a ∧ WordZero b)
    | .div => (WordZero a ∧ WordZero b) ∨ (WordInfinite a ∧ WordInfinite b)

theorem wordInvalid_iff (hw : w ≠ 0) (op : FpOperation) (a b : FloatWord w p) :
    WordInvalid op a b ↔ InvalidData op (fpDatum ⟨w, p⟩ a.toNat) (fpDatum ⟨w, p⟩ b.toNat) := by
  have hsame (ha : (fpDatum ⟨w, p⟩ a.toNat).IsInfinite) :
      a = b ↔ fpDatum ⟨w, p⟩ a.toNat = fpDatum ⟨w, p⟩ b.toNat := by
    obtain ⟨n, hn⟩ := ha
    refine ⟨fun h => by rw [h], fun h => ?_⟩
    rw [eq_packBits_of_fpDatum_infinite hn, eq_packBits_of_fpDatum_infinite (h.symm.trans hn)]
  unfold WordInvalid InvalidData
  rw [fpDatum_eq_nan_iff, fpDatum_eq_nan_iff]
  refine or_congr_right (or_congr_right ?_)
  cases op with
  | add =>
    simp only [← fpDatum_isInfinite_iff]
    exact and_congr_right fun ha => and_congr_right fun _ => not_congr (hsame ha)
  | sub =>
    simp only [← fpDatum_isInfinite_iff]
    exact and_congr_right fun ha => and_congr_right fun _ => hsame ha
  | mul => simp only [fpDatum_isInfinite_iff, fpDatum_isZero_iff hw]
  | div => simp only [fpDatum_isInfinite_iff, fpDatum_isZero_iff hw]

theorem fpOp_of_invalid (hw : w ≠ 0) {op : FpOperation} {a b : FloatWord w p} (h : WordInvalid op a b) :
    fpOp ⟨w, p⟩ op a.toNat b.toNat = .nan :=
  fpApply_of_invalid ((wordInvalid_iff hw op a b).mp h)

/-! ### Infinite operands and exact zeros (R232) -/

/-- The sign that multiplication and division give. -/
def xorSign (a b : FloatWord w p) : FloatWord w p :=
  (a ^^^ b) &&& packBits (w + p) true 0

theorem xorSign_eq (a b : FloatWord w p) : xorSign a b = packBits (w + p) (wordSign a != wordSign b) 0 :=
  xor_and_sign a b

theorem xorSign_or_infinity (a b : FloatWord w p) (m : Nat) :
    xorSign a b ||| packBits (w + p) false m = packBits (w + p) (wordSign a != wordSign b) m := by
  rw [xorSign_eq, packBits_sign_or]

/-- The result of a valid operation with an infinite operand. -/
def infiniteWord (op : FpOperation) (a b : FloatWord w p) : FloatWord w p :=
  match op with
  | .add => if Special a then a else b
  | .sub => if Special a then a else b ^^^ packBits (w + p) true 0
  | .mul => xorSign a b ||| packBits (w + p) false (infinityPattern ⟨w, p⟩)
  | .div => if Special a then xorSign a b ||| packBits (w + p) false (infinityPattern ⟨w, p⟩) else xorSign a b

/-- A valid operation with an infinite operand delivers that word. -/
theorem fpOp_infinite (hw : w ≠ 0) {op : FpOperation} {a b : FloatWord w p} (hvalid : ¬WordInvalid op a b)
    (hinf : WordInfinite a ∨ WordInfinite b) :
    ∃ n m, fpOp ⟨w, p⟩ op a.toNat b.toNat = .value n m ∧ packBits (w + p) n m = infiniteWord op a b := by
  have hdata := mt (wordInvalid_iff hw op a b).mpr hvalid
  obtain ⟨ha, hb, -⟩ := not_or.mp hvalid |>.imp_right not_or.mp
  have hsignA := fpDatum_sign ha
  have hsignB := fpDatum_sign hb
  rw [fpOp_eq_fpApply]
  rcases fpDatum_cases ha with ⟨n, hn⟩ | hfinite
  · have hspecial : Special a := ((fpDatum_isInfinite_iff a).mp ⟨n, hn⟩).1
    have hword := eq_packBits_of_fpDatum_infinite hn
    rw [hn] at hdata hsignA ⊢
    have hres := fpApply_infinite_left hdata (fmt := ⟨w, p⟩)
    cases op with
    | add => exact ⟨_, _, hres, hword.symm.trans (if_pos hspecial).symm⟩
    | sub => exact ⟨_, _, hres, hword.symm.trans (if_pos hspecial).symm⟩
    | mul =>
      refine ⟨_, _, hres, ?_⟩
      rw [hsignA, hsignB]
      exact (xorSign_or_infinity a b _).symm
    | div =>
      refine ⟨_, _, hres, Eq.trans ?_ (if_pos hspecial).symm⟩
      rw [hsignA, hsignB]
      exact (xorSign_or_infinity a b _).symm
  · obtain ⟨k, hk⟩ := (fpDatum_isInfinite_iff b).mpr (hinf.resolve_left fun h => hfinite h.1)
    have hword := eq_packBits_of_fpDatum_infinite hk
    rw [fpDatum_of_not_special hfinite, hk] at hdata ⊢
    rw [hk] at hsignB
    have hres := fpApply_infinite_right hdata (fmt := ⟨w, p⟩)
    cases op with
    | add => exact ⟨_, _, hres, hword.symm.trans (if_neg hfinite).symm⟩
    | sub =>
      refine ⟨_, _, hres, Eq.trans ?_ (if_neg hfinite).symm⟩
      rw [hword, packBits_xor_sign, Bool.bne_true]
      rfl
    | mul =>
      refine ⟨_, _, hres, ?_⟩
      rw [hsignB]
      exact (xorSign_or_infinity a b _).symm
    | div =>
      refine ⟨_, _, hres, Eq.trans ?_ (if_neg hfinite).symm⟩
      rw [hsignB]
      exact (xorSign_eq a b).symm

/-- The zero delivered where the exact result is 0. -/
def zeroWord (op : FpOperation) (a b : FloatWord w p) : FloatWord w p :=
  match op with
  | .add =>
    if a = packBits (w + p) true 0 ∧ b = packBits (w + p) true 0 then packBits (w + p) true 0 else packBits (w + p) false 0
  | .sub =>
    if a = packBits (w + p) true 0 ∧ b = packBits (w + p) false 0 then packBits (w + p) true 0 else packBits (w + p) false 0
  | .mul => xorSign a b
  | .div => xorSign a b

/-- The zero of a sign that a condition decides. -/
theorem packBits_eq_ite {k : Nat} {c : Prop} [Decidable c] {n : Bool} (h : n = true ↔ c) :
    packBits k n 0 = if c then packBits k true 0 else packBits k false 0 := by
  cases n with
  | false => exact (if_neg fun hc => Bool.false_ne_true (h.mpr hc)).symm
  | true => exact (if_pos (h.mp rfl)).symm

/-- The zero of the rule's sign is that word. -/
theorem packBits_zeroSign {op : FpOperation} {a b : FloatWord w p}
    (hzero : exactResult op (wordValue a) (wordValue b) = 0) :
    packBits (w + p) (zeroSign op (wordSign a) (wordSign b)) 0 = zeroWord op a b := by
  cases op with
  | add =>
    refine packBits_eq_ite ((zeroSign_add_iff hzero).trans ?_)
    rw [eq_packBits_zero_iff, eq_packBits_zero_iff, unitsOf_eq_zero_iff, unitsOf_eq_zero_iff]
  | sub =>
    refine packBits_eq_ite ((zeroSign_sub_iff hzero).trans ?_)
    rw [eq_packBits_zero_iff, eq_packBits_zero_iff, unitsOf_eq_zero_iff, unitsOf_eq_zero_iff]
  | mul => exact (xorSign_eq a b).symm
  | div => exact (xorSign_eq a b).symm

/-- An exact zero is delivered as that word. -/
theorem fpOp_exact_zero (hw : w ≠ 0) {op : FpOperation} {a b : FloatWord w p} (ha : ¬Special a) (hb : ¬Special b)
    (hdiv : op = .div → ¬WordZero b) (hzero : exactResult op (wordValue a) (wordValue b) = 0) :
    ∃ n m, fpOp ⟨w, p⟩ op a.toNat b.toNat = .value n m ∧ packBits (w + p) n m = zeroWord op a b :=
  ⟨_, _, (fpOp_computes hw ha hb hdiv).zero_of_eq hzero, packBits_zeroSign hzero⟩

end

end Sys2Proof.Machine
end

section
/-! PROOFS. Single and double precision arithmetic (46_floating_point.md R223 to R238): the statements' terms are those of words
with 8 and 23, or 11 and 52, bits of exponent and fraction. -/

namespace Sys2Proof.Machine

/-! ### Single precision terms -/

/-- The value of the statements is the word's (R231). -/
theorem singleValue_eq (b : Word) : singleValue b = wordValue (w := 8) (p := 23) b := by
  have hfields := fields_value 126 23 (b.toNat / 2 ^ 23 % 2 ^ 8) (b.toNat % 2 ^ 23) (b.getLsbD 31)
  rw [← unitsOf_mod] at hfields
  simp only [singleValue, fraction_toNat, extractLsb'_toNat_eq b 23 8]
  exact hfields

/-- The limit of the statements, in units. -/
theorem limitUnits_binary32 : limitUnits binary32 = singleLimit * (unitsOfOne binary32 : Nat) := by
  rw [limitUnits_eq binary32 (by decide)]
  norm_num [binary32, maxExponent, unitsOfOne, singleLimit]

theorem singleNearest_iff (v : Word) (z : ℚ) : SingleNearest v z ↔ WordNearest (w := 8) (p := 23) v z := by
  have hvalue : singleValue = wordValue (w := 8) (p := 23) := funext singleValue_eq
  rw [SingleNearest, hvalue]
  exact Iff.rfl

theorem singleInvalid_iff (op : FpOperation) (a b : Word) :
    SingleInvalid op a b ↔ WordInvalid (w := 8) (p := 23) op a b := by
  cases op <;> exact Iff.rfl

theorem singleInfiniteResult_eq (op : FpOperation) (a b : Word) :
    singleInfiniteResult op a b = infiniteWord (w := 8) (p := 23) op a b := by
  cases op <;> rfl

theorem singleZeroResult_eq (op : FpOperation) (a b : Word) :
    singleZeroResult op a b = zeroWord (w := 8) (p := 23) op a b := by
  cases op <;> rfl

theorem quietNaN32_isQuiet (draw : BitVec 23) : SingleQuietNaN (quietNaN32 draw) := by
  constructor
  · apply BitVec.eq_of_getLsbD_eq
    intro i hi
    simp only [quietNaN32, BitVec.getLsbD_extractLsb', BitVec.getLsbD_append]
    interval_cases i <;> simp
  · simp only [quietNaN32, BitVec.getLsbD_append]
    simp

/-! ### Double precision terms -/

theorem doubleValue_eq (b : DWord) : doubleValue b = wordValue (w := 11) (p := 52) b := by
  have hfields := fields_value 1022 52 (b.toNat / 2 ^ 52 % 2 ^ 11) (b.toNat % 2 ^ 52) (b.getLsbD 63)
  rw [← unitsOf_mod] at hfields
  have hone : unitsOfOne ⟨11, 52⟩ = 2 ^ (1022 + 52) := congrArg (2 ^ ·) (by decide)
  simp only [doubleValue, fraction_toNat, extractLsb'_toNat_eq b 52 11, wordValue, unitsValue, hone]
  exact hfields

theorem unitsOfOne_binary64 : ((unitsOfOne binary64 : Nat) : ℚ) = 2 ^ 52 * 2 ^ 1022 := by
  have hexp : 2 ^ (binary64.expBits - 1) - 2 + binary64.fracBits = 52 + 1022 := by decide
  rw [unitsOfOne, hexp, Nat.cast_pow, Nat.cast_two, pow_add]

/-- The powers of 2 are kept apart as letters, so that no large number is written out. -/
theorem limitUnits_binary64 : limitUnits binary64 = doubleLimit * (unitsOfOne binary64 : Nat) := by
  have hlimit : limitUnits binary64 = (2 ^ 54 - 1) * 2 ^ 2045 / 2 := limitUnits_eq binary64 (by decide)
  have htop : (2 : ℚ) ^ 2045 = 2 ^ 1022 * 2 ^ 1023 := by rw [← pow_add]
  rw [hlimit, unitsOfOne_binary64, doubleLimit, htop]
  generalize (2 : ℚ) ^ 1022 = x
  generalize (2 : ℚ) ^ 1023 = y
  norm_num
  ring

theorem doubleNearest_iff (v : DWord) (z : ℚ) : DoubleNearest v z ↔ WordNearest (w := 11) (p := 52) v z := by
  have hvalue : doubleValue = wordValue (w := 11) (p := 52) := funext doubleValue_eq
  rw [DoubleNearest, hvalue]
  exact Iff.rfl

theorem doubleInvalid_iff (op : FpOperation) (a b : DWord) :
    DoubleInvalid op a b ↔ WordInvalid (w := 11) (p := 52) op a b := by
  cases op <;> exact Iff.rfl

theorem doubleInfiniteResult_eq (op : FpOperation) (a b : DWord) :
    doubleInfiniteResult op a b = infiniteWord (w := 11) (p := 52) op a b := by
  cases op <;> rfl

theorem doubleZeroResult_eq (op : FpOperation) (a b : DWord) :
    doubleZeroResult op a b = zeroWord (w := 11) (p := 52) op a b := by
  cases op <;> rfl

theorem quietNaN64_isQuiet (draw : BitVec 52) : DoubleQuietNaN (quietNaN64 draw) := by
  constructor
  · apply BitVec.eq_of_getLsbD_eq
    intro i hi
    simp only [quietNaN64, BitVec.getLsbD_extractLsb', BitVec.getLsbD_append]
    interval_cases i <;> simp
  · simp only [quietNaN64, BitVec.getLsbD_append]
    simp

/-! ### What an instruction answers, by the result of its operation -/

section
variable {op : FpOperation} {s : State} {fd fs ft : RegNum}

theorem exec_single_of_result {r : FpResult} (h : fpOp binary32 op (s.fpr fs).toNat (s.fpr ft).toNat = r) :
    exec (singleInstr op fd fs ft) s = deliverSingle fd s r := by
  rw [exec_singleInstr, arithSingle, h]

theorem exec_double_of_result (hd : EvenPair fd) (hs : EvenPair fs) (ht : EvenPair ft) {r : FpResult}
    (h : fpOp binary64 op (doubleAt s fs).toNat (doubleAt s ft).toNat = r) :
    exec (doubleInstr op fd fs ft) s = deliverDouble fd s r := by
  rw [exec_doubleInstr, arithDouble, (evenTriple_iff fd fs ft).mpr ⟨hd, hs, ht⟩, ← doubleAt_eq_pair, ← doubleAt_eq_pair, h]
  rfl

end

section
variable {s : State} {fd : RegNum} {r : Result}

theorem next_of_deliverSingle_value {n : Bool} {m : Nat} (h : r = deliverSingle fd s (.value n m)) :
    ∃ t, r = .next t ∧ t.pc = s.pc + 4#32 ∧ FprWritten s t fd (packSingle n m) 0 :=
  ⟨_, h, rfl, fprWritten_setFpr s fd _⟩

theorem next_of_deliverDouble_value {n : Bool} {m : Nat} (h : r = deliverDouble fd s (.value n m)) :
    ∃ t, r = .next t ∧ t.pc = s.pc + 4#32 ∧ FprPairWritten s t fd (packDouble n m) 0 :=
  ⟨_, h, rfl, fprPairWritten_setPair s fd _⟩

theorem next_of_deliverSingle_nan (h : r = deliverSingle fd s .nan) :
    ∃ t v, r = .next t ∧ t.pc = s.pc + 4#32 ∧ SingleQuietNaN v ∧ FprWritten s t fd v 1 :=
  ⟨_, _, h, rfl, quietNaN32_isQuiet _, fun q => s.fpr_setFpr fd _ q, fun _ => rfl, fun _ => rfl, ⟨rfl, rfl⟩, ⟨rfl, rfl⟩,
    rfl, rfl⟩

theorem next_of_deliverDouble_nan (h : r = deliverDouble fd s .nan) :
    ∃ t v, r = .next t ∧ t.pc = s.pc + 4#32 ∧ DoubleQuietNaN v ∧ FprPairWritten s t fd v 1 :=
  ⟨_, _, h, rfl, quietNaN64_isQuiet _, fun q => s.fpr_setPair fd _ q, fun _ => rfl, fun _ => rfl, ⟨rfl, rfl⟩, ⟨rfl, rfl⟩,
    rfl, rfl⟩

end

/-! ### The limits, in units -/

theorem lt_limitUnits_binary32 {z : ℚ} (h : |z| < singleLimit) :
    |z| * (unitsOfOne binary32 : Nat) < limitUnits binary32 := by
  rw [limitUnits_binary32]
  exact mul_lt_mul_of_pos_right h (unitsOfOne_pos binary32)

theorem limitUnits_binary32_le {z : ℚ} (h : singleLimit ≤ |z|) :
    limitUnits binary32 ≤ |z| * (unitsOfOne binary32 : Nat) := by
  rw [limitUnits_binary32]
  exact mul_le_mul_of_nonneg_right h (unitsOfOne_pos binary32).le

theorem lt_limitUnits_binary64 {z : ℚ} (h : |z| < doubleLimit) :
    |z| * (unitsOfOne binary64 : Nat) < limitUnits binary64 := by
  rw [limitUnits_binary64]
  exact mul_lt_mul_of_pos_right h (unitsOfOne_pos binary64)

theorem limitUnits_binary64_le {z : ℚ} (h : doubleLimit ≤ |z|) :
    limitUnits binary64 ≤ |z| * (unitsOfOne binary64 : Nat) := by
  rw [limitUnits_binary64]
  exact mul_le_mul_of_nonneg_right h (unitsOfOne_pos binary64).le

/-! ### The statements -/

/-- Settles O51: below the limit the delivered pattern is the one nearest to the exact magnitude, with its sign. -/
theorem singleArithmeticRoundsToNearest : Obligations.SingleArithmeticRoundsToNearest := by
  rintro op s fd fs ft z ha hb hdiv rfl hlt
  simp only [singleValue_eq] at hlt ⊢
  obtain ⟨n, m, hres, hnear⟩ :=
    fpOp_nearest (w := 8) (p := 23) (by decide) (by decide) ha hb hdiv (lt_limitUnits_binary32 hlt)
  obtain ⟨t, hnext, hpc, hwritten⟩ := next_of_deliverSingle_value (exec_single_of_result (fd := fd) hres)
  exact ⟨t, packSingle n m, hnext, hpc, (singleNearest_iff _ _).mpr hnear, hwritten⟩

/-- Settles O52: the same rounding, into the pair. -/
theorem doubleArithmeticRoundsToNearest : Obligations.DoubleArithmeticRoundsToNearest := by
  rintro op s fd fs ft z hd hs ht ha hb hdiv rfl hlt
  simp only [doubleValue_eq] at hlt ⊢
  obtain ⟨n, m, hres, hnear⟩ :=
    fpOp_nearest (w := 11) (p := 52) (by decide) (by decide) ha hb hdiv (lt_limitUnits_binary64 hlt)
  obtain ⟨t, hnext, hpc, hwritten⟩ := next_of_deliverDouble_value (exec_double_of_result hd hs ht hres)
  exact ⟨t, packDouble n m, hnext, hpc, (doubleNearest_iff _ _).mpr hnear, hwritten⟩

/-- Settles O53: from the limit on the nearest pattern is that of infinity or above. -/
theorem floatOverflowTakesCode12 : Obligations.FloatOverflowTakesCode12 := by
  intro op s fd fs ft z
  constructor
  · rintro ha hb hdiv rfl hle
    simp only [singleValue_eq] at hle
    have hres := fpOp_overflow (w := 8) (p := 23) (by decide) (by decide) ha hb hdiv (limitUnits_binary32_le hle)
    exact exceptionTaken_of_eq_raise (e := .overflow) (exec_single_of_result hres)
  · rintro hd hs ht ha hb hdiv rfl hle
    simp only [doubleValue_eq] at hle
    have hres := fpOp_overflow (w := 11) (p := 52) (by decide) (by decide) ha hb hdiv (limitUnits_binary64_le hle)
    exact exceptionTaken_of_eq_raise (e := .overflow) (exec_double_of_result hd hs ht hres)

/-- Settles O54: the zero divisor is tested before the rounding. -/
theorem floatDivideByZeroTraps : Obligations.FloatDivideByZeroTraps := by
  intro s fd fs ft
  constructor
  · intro ha hnonzero hzero
    have hres := fpOp_divide_by_zero (w := 8) (p := 23) (by decide) ha hnonzero hzero
    exact exceptionTaken_of_eq_raise (e := .divisionByZero) (exec_single_of_result (op := .div) hres)
  · intro hd hs ht ha hnonzero hzero
    have hres := fpOp_divide_by_zero (w := 11) (p := 52) (by decide) ha hnonzero hzero
    exact exceptionTaken_of_eq_raise (e := .divisionByZero) (exec_double_of_result (op := .div) hd hs ht hres)

/-- Settles O55: the operation answers a NaN, and whichever is drawn is quiet. -/
theorem invalidOperationGivesQuietNaN : Obligations.InvalidOperationGivesQuietNaN := by
  intro op s fd fs ft
  constructor
  · intro hinvalid
    have hres := fpOp_of_invalid (w := 8) (p := 23) (by decide) ((singleInvalid_iff op _ _).mp hinvalid)
    exact next_of_deliverSingle_nan (exec_single_of_result hres)
  · intro hd hs ht hinvalid
    have hres := fpOp_of_invalid (w := 11) (p := 52) (by decide) ((doubleInvalid_iff op _ _).mp hinvalid)
    exact next_of_deliverDouble_nan (exec_double_of_result hd hs ht hres)

/-- Settles O56: the infinity or zero of the operation's sign is the statement's word. -/
theorem infiniteOperandResults : Obligations.InfiniteOperandResults := by
  intro op s fd fs ft
  constructor
  · intro hvalid hinf
    obtain ⟨n, m, hres, hword⟩ :=
      fpOp_infinite (w := 8) (p := 23) (by decide) (mt (singleInvalid_iff op _ _).mpr hvalid) hinf
    rw [singleInfiniteResult_eq, ← hword]
    exact next_of_deliverSingle_value (exec_single_of_result hres)
  · intro hd hs ht hvalid hinf
    obtain ⟨n, m, hres, hword⟩ :=
      fpOp_infinite (w := 11) (p := 52) (by decide) (mt (doubleInvalid_iff op _ _).mpr hvalid) hinf
    rw [doubleInfiniteResult_eq, ← hword]
    exact next_of_deliverDouble_value (exec_double_of_result hd hs ht hres)

/-- Settles O57: the zero of the rule's sign is the statement's word. -/
theorem exactZeroKeepsItsSign : Obligations.ExactZeroKeepsItsSign := by
  intro op s fd fs ft
  constructor
  · intro ha hb hdiv hzero
    simp only [singleValue_eq] at hzero
    obtain ⟨n, m, hres, hword⟩ := fpOp_exact_zero (w := 8) (p := 23) (by decide) ha hb hdiv hzero
    rw [singleZeroResult_eq, ← hword]
    exact next_of_deliverSingle_value (exec_single_of_result hres)
  · intro hd hs ht ha hb hdiv hzero
    simp only [doubleValue_eq] at hzero
    obtain ⟨n, m, hres, hword⟩ := fpOp_exact_zero (w := 11) (p := 52) (by decide) ha hb hdiv hzero
    rw [doubleZeroResult_eq, ← hword]
    exact next_of_deliverDouble_value (exec_double_of_result hd hs ht hres)

end Sys2Proof.Machine
end
